-- ==== Sys2Proof/Word.lean ====
section
/-!
DEFINITION. The word types of the PIC16F8x: a data item is 8 bits, an instruction word 14 bits, the program counter
13 bits, a file address 9 bits of which an instruction holds 7 (00_scope.md R3, 20_memory.md R81).
-/

namespace Sys2Proof

/-- One data item: `W` and every file register (R3). -/
abbrev Byte := BitVec 8

/-- The 7-bit field `f` of an instruction: an in-bank file address (R122). -/
abbrev FileField := BitVec 7

/-- A 9-bit file address, `AD8:AD7:a[6:0]` (R81). -/
abbrev FileAddr := BitVec 9

/-- A 13-bit program-memory word address (R21). -/
abbrev ProgAddr := BitVec 13

/-- One 14-bit program-memory word (R120). -/
abbrev InstrWord := BitVec 14

/-- The 3-bit index of a bit inside a file register (R122). -/
abbrev BitIndex := BitVec 3

end Sys2Proof
end

