-- ==== Sys2Proof/Config.lean ====
section
/-!
DEFINITION. What the spec leaves OPEN (00_scope.md R4, 92_eei_decisions.md): the parameters a model takes as an
argument, as plain data that State carries and no step changes (assumption log 7), and the values the environment
supplies under no law (`draw` of R8), as constants without a body (assumption logs 2 and 3).
-/

namespace Sys2Proof

/-- The parameters of 00_scope.md R4 that stay open, and the EEPROM device of 10_state.md R40. -/
structure Config where
  /-- `STACK_DEPTH` (decision D7). -/
  stackDepth : Nat
  /-- `INT_DEFER_MAX` (decision D19). -/
  intDeferMax : Nat
  /-- `WDT_ENABLED` (decision D23). -/
  wdtEnabled : Bool
  /-- Whether the EEPROM controller is implemented (R40, decision D20). -/
  eepromDevice : Bool
  /-- `FILE_MAP` (decision D6): the in-bank ranges, first and last address, that are data memory. -/
  dataRanges : List (Nat × Nat)
deriving DecidableEq, Repr

/-- The data-memory sections of the source's map (R41): 20..6F and the common 70..7F. -/
def Config.sourceRanges : List (Nat × Nat) := [(0x20, 0x6F), (0x70, 0x7F)]

/-- The defaults of R4: a stack of 8 (PRESUMED, log 11), no deferral, watchdog off, the source's file map, and no
EEPROM device (R40). -/
def Config.standard : Config where
  stackDepth := 8
  intDeferMax := 0
  wdtEnabled := false
  eepromDevice := false
  dataRanges := Config.sourceRanges

/-- The 8-bit values the environment draws (R36 to R38): the TMR0 count and the levels of the port pins. -/
inductive DrawSource where
  | tmr0
  | portA
  | portB
deriving DecidableEq, Repr

/-- The counters without an address (R45, R47). -/
inductive HiddenCounter where
  | tmr0Pre
  | wdt
  | wdtPre
deriving DecidableEq, Repr

/-- `draw(8)` of R8 at a boundary: a FREE VALUE, a constant without a body (assumption log 2). -/
opaque Config.draw : DrawSource → Nat → Byte

/-- What a hidden counter holds at a boundary: a FREE VALUE, a constant without a body (assumption log 3). -/
opaque Config.count : HiddenCounter → Nat → Nat

end Sys2Proof
end

