-- ==== Sys2Proof/Machine/State.lean ====
section
/-!
DEFINITION. The state of the machine as plain data: every piece of state 10_state.md gives it, the environment's
schedule (60_exceptions.md R240) and the parameters of 00_scope.md R4. INVENTORY.md lists each field with its rule and
reset value.
-/

namespace Sys2Proof.Machine

/-- The hardware has no synchronous exception, trap or fault (60_exceptions.md R230, 20_memory.md R96), so nothing ever
raises one and the type has no constructor. Safe: a situation without a meaning is a refusal (assumption log 16). -/
inductive Fault where
deriving DecidableEq, Repr

/-- The reasons for `refuse` of 93_implementation_defined.md part 2. Each is SAFE: the model stops where the spec gives
the situation no meaning, and proves nothing past it. -/
inductive Refusal where
  /-- An instruction of the table without a meaning; raised by no arm of `exec`. Safe. -/
  | notModelled (mnemonic : String)
  /-- `unassigned_encoding`: the fetched word is one of the 372 of R128; raised by the fetch. Safe. -/
  | unassignedEncoding
  /-- `fetch_outside_program`: `pc` is no address of the loaded program (R92); raised by the fetch. Safe. -/
  | fetchOutsideProgram
  /-- `bank_bit_8`: a file access whose address bit 8 is 1 (R84); raised by MemRead and MemWrite. Safe. -/
  | bankBit8
  /-- `unlisted_file_address`: an address where the source lists no register (R51); raised by MemRead and MemWrite and
  by TRIS 7 (R196). Safe. -/
  | unlistedFileAddress
  /-- `eeprom_control`: EECON1 or EECON2 touched while the EEPROM device is not implemented (R40); raised by MemRead and
  MemWrite. Safe. -/
  | eepromControl
  /-- `stack_overflow`: a push on a full return stack (R99); raised by CALL and the interrupt entry. Safe. -/
  | stackOverflow
  /-- `stack_underflow`: a pop of an empty return stack (R99); raised by RETURN, RETFIE and RETLW. Safe. -/
  | stackUnderflow
  /-- `skip_with_pcl_destination`: DECFSZ or INCFSZ with `d = 1` on PCL (R216, R217). Safe. -/
  | skipWithPclDestination
deriving DecidableEq, Repr

/-- Byte memory: (address, byte) pairs with strictly rising addresses, none equal to what an unlisted address reads as.
Holds the data memory (R41) by in-bank address and the EEPROM (R44) by EEPROM address. -/
abbrev Memory := List Host.Cell

/-- Program memory (R43, R92): the words the loaded program defines, addresses strictly rising. -/
abbrev Program := List (Nat × InstrWord)

/-- What becomes of the two lines that act on the whole core at a boundary (R240). -/
inductive LineEvent where
  /-- Neither. -/
  | quiet
  /-- /MCLR is asserted. -/
  | mclr
  /-- The watchdog times out; possible only with `WDT_ENABLED` (R246). -/
  | wdtTimeout
deriving DecidableEq, Repr

/-- What the environment does before one step (R240), apart from the values it draws. -/
structure Boundary where
  /-- Timer overflow: T0IF <- 1. -/
  t0Overflow : Bool
  /-- RB0/INT trigger: INTF <- 1. -/
  intTrigger : Bool
  /-- RB7..RB4 change: RBIF <- 1. -/
  rbChange : Bool
  /-- EEPROM write complete: EEIF <- 1, only if the device is modelled. -/
  eeComplete : Bool
  /-- Reset line and watchdog. -/
  line : LineEvent
  /-- The entry of a due interrupt is put off, as far as `INT_DEFER_MAX` lets it (R237). -/
  deferInt : Bool
deriving DecidableEq, Repr

/-- A boundary at which the environment does nothing. -/
def Boundary.quiet : Boundary where
  t0Overflow := false
  intTrigger := false
  rbChange := false
  eeComplete := false
  line := .quiet
  deferInt := false

/-- How far the EECON2 sequence 0x55, 0xAA has got (R40; assumption log 13). -/
inductive EeUnlock where
  | locked
  | half
  | unlocked
deriving DecidableEq, Repr

/-- Everything the spec gives the machine. -/
structure State where
  /-- `W` (R20). -/
  w : Byte
  /-- The 13-bit program counter (R21). -/
  pc : ProgAddr
  /-- PCLATH (R23). -/
  pclath : BitVec 5
  /-- STATUS: IRP RP1 RP0 /TO /PD Z DC C from bit 7 down (R24). -/
  status : Byte
  /-- FSR (R31). -/
  fsr : Byte
  /-- INTCON: GIE EEIE T0IE INTE RBIE T0IF INTF RBIF from bit 7 down (R33). -/
  intcon : Byte
  /-- The OPTION register (R35). -/
  optionReg : Byte
  /-- TMR0 (R36): what a read returns; drawn anew at every boundary (log 2). -/
  tmr0 : Byte
  /-- The TMR0 prescaler (R47), width not given (log 3). -/
  tmr0Pre : Nat
  /-- The latch `LATA` (R37). -/
  latA : Byte
  /-- The latch `LATB` (R38). -/
  latB : Byte
  /-- TRISA (R37). -/
  trisA : Byte
  /-- TRISB (R38). -/
  trisB : Byte
  /-- The levels of the port A pins (R37): what a read of PORTA returns; drawn anew at every boundary (log 2). -/
  pinsA : Byte
  /-- The levels of the port B pins (R38). -/
  pinsB : Byte
  /-- EEDATA (R39). -/
  eedata : Byte
  /-- EEADR (R39). -/
  eeadr : BitVec 6
  /-- EECON1: EEIF WRERR WREN WR RD from bit 4 down (R40). -/
  eecon1 : BitVec 5
  /-- What the writes to EECON2 have left behind (R40; log 13). -/
  eeUnlock : EeUnlock
  /-- The EEPROM write in progress: where and what (R40; log 13). -/
  eePending : Option (BitVec 6 × Byte)
  /-- The data memory (R41). -/
  data : Memory
  /-- The EEPROM data memory (R44). -/
  eeprom : Memory
  /-- The program memory (R43). -/
  prog : Program
  /-- The return stack, newest first (R42, R99). -/
  stack : List ProgAddr
  /-- `sleeping` (R46). -/
  sleeping : Bool
  /-- The watchdog timer `WDT` (R45), width not given (log 3). -/
  wdt : Nat
  /-- Its prescaler `WDT.pre` (R45). -/
  wdtPre : Nat
  /-- The model's own: instructions run while the interrupt condition held (R237; log 14). -/
  deferred : Nat
  /-- The model's own: what the environment does before each of the next steps (R240; log 1). -/
  env : List Boundary
  /-- The model's own: the boundary the next draws belong to (log 2). -/
  tick : Nat
  /-- The model's own: the parameters (R4; log 7). -/
  cfg : Config
deriving DecidableEq, Repr

/-- The machine right after reset (R60, R271). W, FSR and the latches are unspecified there and hold 0 here (DESIGN
CHOICE, log 4); TMR0, the pins and the hidden counters are replaced by draws before anything reads them (logs 2, 3);
memories list nothing (logs 5, 6, 8). -/
def State.reset : State where
  w := 0x00#8
  pc := 0x0000#13
  pclath := 0b00000#5
  status := 0x1F#8
  fsr := 0x00#8
  intcon := 0x00#8
  optionReg := 0xFF#8
  tmr0 := 0x00#8
  tmr0Pre := 0
  latA := 0x00#8
  latB := 0x00#8
  trisA := 0xFF#8
  trisB := 0xFF#8
  pinsA := 0x00#8
  pinsB := 0x00#8
  eedata := 0x00#8
  eeadr := 0b000000#6
  eecon1 := 0b00000#5
  eeUnlock := .locked
  eePending := none
  data := []
  eeprom := []
  prog := []
  stack := []
  sleeping := false
  wdt := 0
  wdtPre := 0
  deferred := 0
  env := []
  tick := 0
  cfg := Config.standard

end Sys2Proof.Machine
end

