-- ==== Sys2Proof/Machine/FileMap.lean ====
section
/-!
DEFINITION. The file address map: which register a 9-bit file address names (10_state.md R50, R51; 20_memory.md R81,
R84, R85). The special function registers are fixed by the source; the data-memory ranges are the parameter `FILE_MAP`.
-/

namespace Sys2Proof.Machine

/-- What a file address can name (R50). -/
inductive FileReg where
  | indf
  | tmr0
  | option
  | pcl
  | status
  | fsr
  | portA
  | trisA
  | portB
  | trisB
  | eedata
  | eecon1
  | eeadr
  | eecon2
  | pclath
  | intcon
  | data (r : FileField)
deriving DecidableEq, Repr

/-- The table of R50: in-bank address, the register in bank 0, the register in bank 1. -/
def sfrTable : List (FileField × FileReg × FileReg) :=
  [(0x00#7, .indf, .indf),
   (0x01#7, .tmr0, .option),
   (0x02#7, .pcl, .pcl),
   (0x03#7, .status, .status),
   (0x04#7, .fsr, .fsr),
   (0x05#7, .portA, .trisA),
   (0x06#7, .portB, .trisB),
   (0x08#7, .eedata, .eecon1),
   (0x09#7, .eeadr, .eecon2),
   (0x0A#7, .pclath, .pclath),
   (0x0B#7, .intcon, .intcon)]

/-- Whether `FILE_MAP` makes an in-bank address data memory (R41). -/
def inDataRanges (cfg : Config) (r : FileField) : Bool :=
  cfg.dataRanges.any fun range => decide (range.1 ≤ r.toNat) && decide (r.toNat ≤ range.2)

/-- The in-bank address `a[6:0]` (R81). -/
def inBank (a : FileAddr) : FileField := a.extractLsb' 0 7

/-- The register at a file address: the bank is `AD7` (R84), bit 8 set is refused (R84), and so is an address where the
map lists nothing (R51). The data memory is the same in both banks (R41). -/
def fileReg (cfg : Config) (a : FileAddr) : Except Refusal FileReg :=
  if a.getLsbD 8 then .error .bankBit8
  else
    match sfrTable.lookup (inBank a) with
    | some (bank0, bank1) => .ok (if a.getLsbD 7 then bank1 else bank0)
    | none => if inDataRanges cfg (inBank a) then .ok (.data (inBank a)) else .error .unlistedFileAddress

end Sys2Proof.Machine
end

