-- ==== Sys2Proof/Machine/Bits.lean ====
section
/-!
DEFINITION. Bit-field helpers: writing one bit of a register and the mask `1 << b` of 43_bit_manip.md. Bits are
numbered from 0 at the least significant end (00_scope.md R6).
-/

namespace Sys2Proof.Machine

/-- `v` with bit `i` replaced by `b`. -/
def setBit {n : Nat} (v : BitVec n) (i : Nat) (b : Bool) : BitVec n :=
  if b then v ||| BitVec.twoPow n i else v &&& ~~~(BitVec.twoPow n i)

/-- The mask `2^b` of R122. -/
def bitMask (b : BitIndex) : Byte := BitVec.twoPow 8 b.toNat

/-- The register with bit `i` alone set if `b` is, and no bit set otherwise: what a raised flag adds. -/
def flagBit (n i : Nat) (b : Bool) : BitVec n := if b then BitVec.twoPow n i else 0

end Sys2Proof.Machine
end

