-- ==== Sys2Proof/Machine/Flags.lean ====
section
/-!
DEFINITION. The STATUS bits (10_state.md R24), which of Z, DC and C an instruction writes (R27 to R29), and the
computations that give a result with its flags: the laws of 40_arith_logic.md R150 and R151, the logic results, the
rotates of R175 and R176, and the results that write no flag.
-/

namespace Sys2Proof.Machine

/-- C, STATUS bit 0 (R24). -/
def State.flagC (s : State) : Bool := s.status.getLsbD 0

/-- DC, STATUS bit 1 (R24). -/
def State.flagDC (s : State) : Bool := s.status.getLsbD 1

/-- Z, STATUS bit 2 (R24). -/
def State.flagZ (s : State) : Bool := s.status.getLsbD 2

/-- /PD (`PD_n`), STATUS bit 3 (R24). -/
def State.pdN (s : State) : Bool := s.status.getLsbD 3

/-- /TO (`TO_n`), STATUS bit 4 (R24). -/
def State.toN (s : State) : Bool := s.status.getLsbD 4

/-- RP0, STATUS bit 5 (R24). -/
def State.rp0 (s : State) : Bool := s.status.getLsbD 5

/-- RP1, STATUS bit 6 (R24). -/
def State.rp1 (s : State) : Bool := s.status.getLsbD 6

/-- IRP, STATUS bit 7 (R24). -/
def State.irp (s : State) : Bool := s.status.getLsbD 7

/-- The flags an instruction's own rule writes: `none` where it does not write the flag. -/
structure FlagUpdate where
  z : Option Bool
  dc : Option Bool
  c : Option Bool
deriving DecidableEq, Repr

/-- No "Flags" note: no flag is written (R9). -/
def FlagUpdate.nothing : FlagUpdate := ⟨none, none, none⟩

/-- Whether the set `fl` of R87 is not empty. -/
def FlagUpdate.writesAny (u : FlagUpdate) : Bool := u.z.isSome || u.dc.isSome || u.c.isSome

/-- STATUS with the written flags replaced and every other bit kept. -/
def FlagUpdate.apply (u : FlagUpdate) (status : Byte) : Byte :=
  setBit (setBit (setBit status 2 (u.z.getD (status.getLsbD 2))) 1 (u.dc.getD (status.getLsbD 1)))
    0 (u.c.getD (status.getLsbD 0))

/-- The flag writes of an instruction, which come after its register write (R87). -/
def State.setFlags (s : State) (u : FlagUpdate) : State := { s with status := u.apply s.status }

/-- /TO and /PD as SLEEP, CLRWDT and the watchdog write them (R26). -/
def State.setToPd (s : State) (toBit pdBit : Bool) : State :=
  { s with status := setBit (setBit s.status 4 toBit) 3 pdBit }

/-- A result together with the flags its instruction writes. -/
structure AluResult where
  value : Byte
  flags : FlagUpdate
deriving DecidableEq, Repr

/-- A result of an instruction marked "FlagsZ" (R27). -/
def zResult (r : Byte) : AluResult := ⟨r, ⟨some (r == 0x00#8), none, none⟩⟩

/-- A result of an instruction that writes no flag. -/
def plainResult (r : Byte) : AluResult := ⟨r, FlagUpdate.nothing⟩

/-- `Add8(a, b)` of R150. -/
def add8 (a b : Byte) : AluResult :=
  let s9 : BitVec 9 := a.setWidth 9 + b.setWidth 9
  let r : Byte := s9.setWidth 8
  let s5 : BitVec 5 := (a.extractLsb' 0 4).setWidth 5 + (b.extractLsb' 0 4).setWidth 5
  ⟨r, ⟨some (r == 0x00#8), some (s5.getLsbD 4), some (s9.getLsbD 8)⟩⟩

/-- `Sub8(a, b)` of R151, which computes `a - b` as `a + NOT b + 1`: a flag of 1 means no borrow (log 19). -/
def sub8 (a b : Byte) : AluResult :=
  let nb : Byte := ~~~b
  let s9 : BitVec 9 := a.setWidth 9 + nb.setWidth 9 + 1#9
  let r : Byte := s9.setWidth 8
  let s5 : BitVec 5 := (a.extractLsb' 0 4).setWidth 5 + (nb.extractLsb' 0 4).setWidth 5 + 1#5
  ⟨r, ⟨some (r == 0x00#8), some (s5.getLsbD 4), some (s9.getLsbD 8)⟩⟩

/-- Rotate right through carry (R175): the old C enters at bit 7, bit 0 leaves into C. -/
def rotateRight (c : Bool) (v : Byte) : AluResult :=
  ⟨BitVec.ofBool c ++ v.extractLsb' 1 7, ⟨none, none, some (v.getLsbD 0)⟩⟩

/-- Rotate left through carry (R176): the old C enters at bit 0, bit 7 leaves into C. -/
def rotateLeft (c : Bool) (v : Byte) : AluResult :=
  ⟨v.extractLsb' 0 7 ++ BitVec.ofBool c, ⟨none, none, some (v.getLsbD 7)⟩⟩

/-- The nibble exchange of R177. -/
def swapNibbles (v : Byte) : Byte := v.extractLsb' 0 4 ++ v.extractLsb' 4 4

end Sys2Proof.Machine
end

