-- ==== Sys2Proof/Machine/Ops.lean ====
section
/-!
DEFINITION. The named operations over memory and registers: byte memory and program memory, MemRead and MemWrite
(20_memory.md R86, R87), the EEPROM controller (10_state.md R40), the return stack (R99), taking the interrupt and
returning from it (60_exceptions.md R234, R238), and the reset action (70_reset_and_hazards.md R271).
-/

namespace Sys2Proof.Machine

/-- What an address a memory does not list reads as (DESIGN CHOICE, logs 5 and 6). -/
def Memory.unlisted : Byte := 0x00#8

/-- The byte at an address. -/
def Memory.read : Memory → Nat → Byte
  | [], _ => Memory.unlisted
  | (k, x) :: m, a => if k = a then x else Memory.read m a

/-- `v` put at `a` in front of `m`, unless an unlisted address reads as `v` anyway. -/
def Memory.cons (a : Nat) (v : Byte) (m : Memory) : Memory := if v = Memory.unlisted then m else (a, v) :: m

/-- The memory after a write, in the same canonical form. -/
def Memory.write : Memory → Nat → Byte → Memory
  | [], a, v => Memory.cons a v []
  | (k, x) :: m, a, v =>
    if a < k then Memory.cons a v ((k, x) :: m)
    else if a = k then Memory.cons a v m
    else (k, x) :: Memory.write m a v

/-- The canonical form: addresses strictly rising, all below `bound`, no byte that an unlisted address reads as. -/
def Memory.wf (bound : Nat) : Memory → Bool
  | [] => true
  | [(k, x)] => decide (k < bound) && decide (x ≠ Memory.unlisted)
  | (k, x) :: (k', x') :: m => decide (k < k') && decide (x ≠ Memory.unlisted) && Memory.wf bound ((k', x') :: m)

/-- `ProgRead` as a partial map (R92): the word at an address, if the program defines it. -/
def Program.read : Program → Nat → Option InstrWord
  | [], _ => none
  | (k, x) :: p, a => if k = a then some x else Program.read p a

/-- The program with one word placed: a load from outside the machine (log 8), which no instruction can do (R100). -/
def Program.write : Program → Nat → InstrWord → Program
  | [], a, v => [(a, v)]
  | (k, x) :: p, a, v =>
    if a < k then (a, v) :: (k, x) :: p
    else if a = k then (a, v) :: p
    else (k, x) :: Program.write p a v

/-- The canonical form of a program: addresses strictly rising, all 13-bit. -/
def Program.wf : Program → Bool
  | [] => true
  | [(k, _)] => decide (k < 0x2000)
  | (k, _) :: (k', x') :: p => decide (k < k') && Program.wf ((k', x') :: p)

/-- The implicit `pc <- pc + 1` of R8 and R21, modulo 0x2000. -/
def State.advance (s : State) : State := { s with pc := s.pc + 1#13 }

/-- EECON1 bit 4, EEIF (R40, R231). -/
def State.eeif (s : State) : Bool := s.eecon1.getLsbD 4

/-- A write to EECON1 with the device implemented (R40; PRESUMED details in log 13): EEIF, WRERR and WREN are stored;
RD copies the addressed EEPROM byte to EEDATA and reads back 0; WR starts a write if WREN was set and EECON2 has
unlocked it, and stays 1 until the write ends. DESIGN CHOICE (log 13): the spec gives no order between RD and WR of one
write; where both are 1 the write that starts latches the EEDATA of before the instruction, and RD loads EEDATA from the
array. -/
def writeEecon1 (s : State) (v : Byte) : State :=
  let busy := s.eecon1.getLsbD 1
  let start := v.getLsbD 1 && s.eecon1.getLsbD 2 && (s.eeUnlock == .unlocked) && !busy
  { s with
    eecon1 := (v.setWidth 5 &&& 0b11100#5) ||| flagBit 5 1 (busy || start)
    eeUnlock := if start then .locked else s.eeUnlock
    eePending := if start then some (s.eeadr, s.eedata) else s.eePending
    eedata := if v.getLsbD 0 then s.eeprom.read s.eeadr.toNat else s.eedata }

/-- A write to EECON2 with the device implemented (R40): 0x55 then 0xAA unlocks a write, anything else locks it. -/
def writeEecon2 (s : State) (v : Byte) : State :=
  { s with
    eeUnlock :=
      if v = 0x55#8 then .half
      else if v = 0xAA#8 ∧ s.eeUnlock = .half then .unlocked
      else .locked }

/-- The end of an EEPROM write (R40, R240): the byte reaches the array, WR is cleared and EEIF set. -/
def completeEepromWrite (s : State) : State :=
  { s with
    eecon1 := (s.eecon1 &&& 0b11101#5) ||| 0b10000#5
    eeprom :=
      match s.eePending with
      | some (a, v) => s.eeprom.write a.toNat v
      | none => s.eeprom
    eePending := none }

/-- `MemWrite` to STATUS (R30, R87): /TO and /PD keep their values, and Z, DC, C are written only by an instruction
that writes no flag of its own. -/
def mergeStatus (old v : Byte) (writesFlags : Bool) : Byte :=
  if writesFlags then (v &&& 0xE0#8) ||| (old &&& 0x1F#8) else (v &&& 0xE7#8) ||| (old &&& 0x18#8)

/-- The value a register reads as (R86). -/
def readReg (s : State) : FileReg → Except Refusal Byte
  | .indf => .ok 0x00#8
  | .tmr0 => .ok s.tmr0
  | .option => .ok s.optionReg
  | .pcl => .ok ((s.pc + 1#13).extractLsb' 0 8)
  | .status => .ok s.status
  | .fsr => .ok s.fsr
  | .portA => .ok s.pinsA
  | .trisA => .ok s.trisA
  | .portB => .ok s.pinsB
  | .trisB => .ok s.trisB
  | .eedata => .ok s.eedata
  | .eecon1 => if s.cfg.eepromDevice then .ok (s.eecon1.setWidth 8) else .error .eepromControl
  | .eeadr => .ok (s.eeadr.setWidth 8)
  | .eecon2 => if s.cfg.eepromDevice then .ok 0x00#8 else .error .eepromControl
  | .pclath => .ok (s.pclath.setWidth 8)
  | .intcon => .ok s.intcon
  | .data r => .ok (s.data.read r.toNat)

/-- A register written by an instruction that writes flags of its own or none (R87). -/
def writeReg (s : State) (writesFlags : Bool) (v : Byte) : FileReg → Except Refusal State
  | .indf => .ok s
  | .tmr0 => .ok { s with tmr0 := v }
  | .option => .ok { s with optionReg := v }
  | .pcl => .ok { s with pc := s.pclath ++ v }
  | .status => .ok { s with status := mergeStatus s.status v writesFlags }
  | .fsr => .ok { s with fsr := v }
  | .portA => .ok { s with latA := v }
  | .trisA => .ok { s with trisA := v }
  | .portB => .ok { s with latB := v }
  | .trisB => .ok { s with trisB := v }
  | .eedata => .ok { s with eedata := v }
  | .eecon1 => if s.cfg.eepromDevice then .ok (writeEecon1 s v) else .error .eepromControl
  | .eeadr => .ok { s with eeadr := v.setWidth 6 }
  | .eecon2 => if s.cfg.eepromDevice then .ok (writeEecon2 s v) else .error .eepromControl
  | .pclath => .ok { s with pclath := v.setWidth 5 }
  | .intcon => .ok { s with intcon := v }
  | .data r => .ok { s with data := s.data.write r.toNat v }

/-- `MemRead(a, 1)` (R86), with `pc` at the address of the executing instruction; it changes no state. -/
def memRead (s : State) (a : FileAddr) : Except Refusal Byte :=
  match fileReg s.cfg a with
  | .error r => .error r
  | .ok reg => readReg s reg

/-- `MemWrite(a, 1, v)` (R87), with `writesFlags` saying whether the set `fl` is not empty. -/
def memWrite (s : State) (a : FileAddr) (writesFlags : Bool) (v : Byte) : Except Refusal State :=
  match fileReg s.cfg a with
  | .error r => .error r
  | .ok reg => writeReg s writesFlags v reg

/-- `Push(v)` (R99). -/
def push (s : State) (v : ProgAddr) : Except Refusal State :=
  if s.stack.length = s.cfg.stackDepth then .error .stackOverflow else .ok { s with stack := v :: s.stack }

/-- `pc <- Pop()` (R99): every pop of the machine goes to `pc`. -/
def popToPc (s : State) : Except Refusal State :=
  match s.stack with
  | [] => .error .stackUnderflow
  | t :: rest => .ok { s with stack := rest, pc := t }

/-- Taking the interrupt (R234): GIE <- 0, the address of the next instruction is pushed, `pc` goes to the one vector
(R235), and nothing else changes. -/
def takeInterrupt (s : State) : Except Refusal State :=
  match push { s with intcon := setBit s.intcon 7 false } s.pc with
  | .error r => .error r
  | .ok t => .ok { t with pc := 0x0004#13 }

/-- The return from the interrupt (R202, R238): `pc <- Pop(); GIE <- 1`. -/
def returnFromInterrupt (s : State) : Except Refusal State :=
  match popToPc s with
  | .error r => .error r
  | .ok t => .ok { t with intcon := setBit t.intcon 7 true }

/-- Why the device is reset (R270). -/
inductive ResetCause where
  | mclr
  | watchdog
deriving DecidableEq, Repr

/-- The reset action (R271, R246). What it does not assign is kept (log 10). -/
def resetAction (cause : ResetCause) (s : State) : State :=
  { s with
    pc := 0x0000#13
    pclath := 0b00000#5
    status :=
      match cause with
      | .mclr => 0x1F#8
      | .watchdog => 0x0F#8
    intcon := 0x00#8
    optionReg := 0xFF#8
    trisA := 0xFF#8
    trisB := 0xFF#8
    eedata := 0x00#8
    eeadr := 0b000000#6
    eecon1 := 0b00000#5
    eeUnlock := .locked
    eePending := none
    sleeping := false
    stack := []
    deferred := 0 }

/-- An operation's answer as the outcome of a step. -/
def finish (r : Except Refusal State) : Host.Outcome State Fault Refusal :=
  match r with
  | .ok s => .next s
  | .error e => .refused e

end Sys2Proof.Machine
end

