-- ==== Sys2Proof/Syntax.lean ====
section
/-!
DEFINITION. The 37 instructions of 30_encoding.md R125, in the order of the table. The table's two TRIS rows are one
instruction whose operand is 5, 6 or 7 (46_option_tris.md R196; assumption log 18).
-/

namespace Sys2Proof

/-- The destination bit `d` (R89): 0 stores in `W`, 1 stores in the file register. -/
inductive Dest where
  | w
  | f
deriving DecidableEq, Repr

/-- One constructor per instruction of R125. -/
inductive Instr where
  | nop
  | ret
  | retfie
  | option
  | sleep
  | clrwdt
  | tris (f : BitVec 3)
  | movwf (f : FileField)
  | clrw
  | clrf (f : FileField)
  | subwf (f : FileField) (d : Dest)
  | decf (f : FileField) (d : Dest)
  | iorwf (f : FileField) (d : Dest)
  | andwf (f : FileField) (d : Dest)
  | xorwf (f : FileField) (d : Dest)
  | addwf (f : FileField) (d : Dest)
  | movf (f : FileField) (d : Dest)
  | comf (f : FileField) (d : Dest)
  | incf (f : FileField) (d : Dest)
  | decfsz (f : FileField) (d : Dest)
  | rrf (f : FileField) (d : Dest)
  | rlf (f : FileField) (d : Dest)
  | swapf (f : FileField) (d : Dest)
  | incfsz (f : FileField) (d : Dest)
  | bcf (f : FileField) (b : BitIndex)
  | bsf (f : FileField) (b : BitIndex)
  | btfsc (f : FileField) (b : BitIndex)
  | btfss (f : FileField) (b : BitIndex)
  | call (k : BitVec 11)
  | goto (k : BitVec 11)
  | movlw (k : Byte)
  | retlw (k : Byte)
  | iorlw (k : Byte)
  | andlw (k : Byte)
  | xorlw (k : Byte)
  | sublw (k : Byte)
  | addlw (k : Byte)
deriving DecidableEq, Repr

end Sys2Proof
end

