-- ==== Sys2Proof/Machine/Operands.lean ====
section
/-!
DEFINITION. The operand forms: the effective address of a field `f`, direct or through FSR (20_memory.md R82, R83), the
destination `d` (R89), and the shapes that the instructions with a file operand share (R88): read once at the start,
write the same address once at the end, then write the flags. The target of CALL and GOTO (47_jumps_system.md R205).
-/

namespace Sys2Proof.Machine

/-- `EA(f)`: `RP1:RP0:f` for a direct access (R82), `IRP:FSR` when `f` is 0 (R83). -/
def effAddr (s : State) (f : FileField) : FileAddr :=
  if f = 0x00#7 then BitVec.ofBool s.irp ++ s.fsr
  else BitVec.ofBool s.rp1 ++ BitVec.ofBool s.rp0 ++ f

/-- `Dest(d, f, v)` of R89, the address already formed. -/
def writeDest (s : State) (d : Dest) (a : FileAddr) (writesFlags : Bool) (v : Byte) : Except Refusal State :=
  match d with
  | .w => .ok { s with w := v }
  | .f => memWrite s a writesFlags v

/-- A byte-oriented instruction (R88): read `EA(f)`, compute, store by `d`, write the flags. The write runs after the
implicit `pc <- pc + 1`, which a write to PCL replaces. -/
def byteOp (f : FileField) (d : Dest) (alu : Byte → AluResult) (s : State) : Except Refusal State :=
  let a := effAddr s f
  match memRead s a with
  | .error r => .error r
  | .ok v =>
    let out := alu v
    match writeDest s.advance d a out.flags.writesAny out.value with
    | .error r => .error r
    | .ok t => .ok (t.setFlags out.flags)

/-- An instruction that writes a file register without reading it: MOVWF and CLRF (R88). -/
def storeOp (f : FileField) (out : AluResult) (s : State) : Except Refusal State :=
  match memWrite s.advance (effAddr s f) out.flags.writesAny out.value with
  | .error r => .error r
  | .ok t => .ok (t.setFlags out.flags)

/-- A literal instruction: the destination is `W` (40_arith_logic.md section 3). -/
def literalOp (out : AluResult) (s : State) : State := { s.advance with w := out.value }.setFlags out.flags

/-- The skip of R215: `pc + 2` instead of `pc + 1`, for a state that has already advanced. -/
def skipIf (condition : Bool) (s : State) : State := if condition then s.advance else s

/-- DECFSZ and INCFSZ (R216, R217): a byte-oriented instruction without flags that skips when its result is 0x00, and
is refused when it would write PCL. -/
def byteSkipOp (f : FileField) (d : Dest) (alu : Byte → Byte) (s : State) : Except Refusal State :=
  let a := effAddr s f
  match memRead s a with
  | .error r => .error r
  | .ok v =>
    let r := alu v
    if d = .f ∧ inBank a = 0x02#7 then .error .skipWithPclDestination
    else
      match writeDest s.advance d a false r with
      | .error e => .error e
      | .ok t => .ok (skipIf (r == 0x00#8) t)

/-- BTFSC and BTFSS (R218, R219): read `EA(f)` and skip when bit `b` has the wanted value; nothing is written. -/
def bitSkipOp (f : FileField) (b : BitIndex) (want : Bool) (s : State) : Except Refusal State :=
  match memRead s (effAddr s f) with
  | .error r => .error r
  | .ok v => .ok (skipIf (v.getLsbD b.toNat == want) s.advance)

/-- `Target(k)` of R205: PCLATH[4:3] above the 11 bits of the instruction. -/
def jumpTarget (s : State) (k : BitVec 11) : ProgAddr := s.pclath.extractLsb' 3 2 ++ k

end Sys2Proof.Machine
end

