-- ==== Sys2Proof/Machine/ArithLogic.lean ====
section
/-!
DEFINITION. The arithmetic and logic instructions of 40_arith_logic.md (R152 to R161).
-/

namespace Sys2Proof.Machine

/-- SUBWF (R152): `f - W`, `W` the subtrahend; writes C, DC, Z. -/
def execSubwf (f : FileField) (d : Dest) (s : State) : Host.Outcome State Fault Refusal :=
  finish (byteOp f d (fun v => sub8 v s.w) s)

/-- IORWF (R153): writes Z. -/
def execIorwf (f : FileField) (d : Dest) (s : State) : Host.Outcome State Fault Refusal :=
  finish (byteOp f d (fun v => zResult (s.w ||| v)) s)

/-- ANDWF (R154): writes Z. -/
def execAndwf (f : FileField) (d : Dest) (s : State) : Host.Outcome State Fault Refusal :=
  finish (byteOp f d (fun v => zResult (s.w &&& v)) s)

/-- XORWF (R155): writes Z. -/
def execXorwf (f : FileField) (d : Dest) (s : State) : Host.Outcome State Fault Refusal :=
  finish (byteOp f d (fun v => zResult (s.w ^^^ v)) s)

/-- ADDWF (R156): writes C, DC, Z. -/
def execAddwf (f : FileField) (d : Dest) (s : State) : Host.Outcome State Fault Refusal :=
  finish (byteOp f d (fun v => add8 s.w v) s)

/-- IORLW (R157): writes Z. -/
def execIorlw (k : Byte) (s : State) : Host.Outcome State Fault Refusal :=
  .next (literalOp (zResult (s.w ||| k)) s)

/-- ANDLW (R158): writes Z. -/
def execAndlw (k : Byte) (s : State) : Host.Outcome State Fault Refusal :=
  .next (literalOp (zResult (s.w &&& k)) s)

/-- XORLW (R159): writes Z. -/
def execXorlw (k : Byte) (s : State) : Host.Outcome State Fault Refusal :=
  .next (literalOp (zResult (s.w ^^^ k)) s)

/-- SUBLW (R160): `k - W`; writes C, DC, Z. -/
def execSublw (k : Byte) (s : State) : Host.Outcome State Fault Refusal :=
  .next (literalOp (sub8 k s.w) s)

/-- ADDLW (R161): writes C, DC, Z. -/
def execAddlw (k : Byte) (s : State) : Host.Outcome State Fault Refusal :=
  .next (literalOp (add8 s.w k) s)

end Sys2Proof.Machine
end

