-- ==== Sys2Proof/Machine/BitManip.lean ====
section
/-!
DEFINITION. The bit instructions of 43_bit_manip.md (R180, R181): the whole byte is read and written back (R88).
-/

namespace Sys2Proof.Machine

/-- BCF (R180). -/
def execBcf (f : FileField) (b : BitIndex) (s : State) : Host.Outcome State Fault Refusal :=
  finish (byteOp f .f (fun v => plainResult (v &&& ~~~(bitMask b))) s)

/-- BSF (R181). -/
def execBsf (f : FileField) (b : BitIndex) (s : State) : Host.Outcome State Fault Refusal :=
  finish (byteOp f .f (fun v => plainResult (v ||| bitMask b)) s)

end Sys2Proof.Machine
end

