-- ==== Sys2Proof/Machine/ClearComplement.lean ====
section
/-!
DEFINITION. The clear and complement instructions of 44_clear_complement.md (R185 to R187).
-/

namespace Sys2Proof.Machine

/-- CLRW (R185): accesses no file register; Z becomes 1. -/
def execClrw (s : State) : Host.Outcome State Fault Refusal :=
  .next (literalOp (zResult 0x00#8) s)

/-- CLRF (R186): the register is written without being read; Z becomes 1. -/
def execClrf (f : FileField) (s : State) : Host.Outcome State Fault Refusal :=
  finish (storeOp f (zResult 0x00#8) s)

/-- COMF (R187): writes Z. -/
def execComf (f : FileField) (d : Dest) (s : State) : Host.Outcome State Fault Refusal :=
  finish (byteOp f d (fun v => zResult (~~~v)) s)

end Sys2Proof.Machine
end

