-- ==== Sys2Proof/Machine/IncDec.lean ====
section
/-!
DEFINITION. The increment and decrement instructions of 41_inc_dec.md (R170, R171).
-/

namespace Sys2Proof.Machine

/-- DECF (R170): writes Z only. -/
def execDecf (f : FileField) (d : Dest) (s : State) : Host.Outcome State Fault Refusal :=
  finish (byteOp f d (fun v => zResult (v - 1#8)) s)

/-- INCF (R171): writes Z only. -/
def execIncf (f : FileField) (d : Dest) (s : State) : Host.Outcome State Fault Refusal :=
  finish (byteOp f d (fun v => zResult (v + 1#8)) s)

end Sys2Proof.Machine
end

