-- ==== Sys2Proof/Machine/JumpsSystem.lean ====
section
/-!
DEFINITION. The jumps and system instructions of 47_jumps_system.md (R200 to R207).
-/

namespace Sys2Proof.Machine

/-- NOP (R200). -/
def execNop (s : State) : Host.Outcome State Fault Refusal :=
  .next s.advance

/-- RETURN (R201): `pc <- Pop()`. -/
def execReturn (s : State) : Host.Outcome State Fault Refusal :=
  finish (popToPc s)

/-- RETFIE (R202): `pc <- Pop(); GIE <- 1`. -/
def execRetfie (s : State) : Host.Outcome State Fault Refusal :=
  finish (returnFromInterrupt s)

/-- SLEEP (R203): the watchdog and its prescaler restart, /TO <- 1, /PD <- 0, and the core sleeps. -/
def execSleep (s : State) : Host.Outcome State Fault Refusal :=
  .next { s.advance.setToPd true false with wdt := 0, wdtPre := 0, sleeping := true }

/-- CLRWDT (R204): the watchdog and its prescaler restart, /TO <- 1, /PD <- 1. -/
def execClrwdt (s : State) : Host.Outcome State Fault Refusal :=
  .next { s.advance.setToPd true true with wdt := 0, wdtPre := 0 }

/-- CALL (R206): the address of the next word is pushed, and `pc` goes to `Target(k)` (R205). -/
def execCall (k : BitVec 11) (s : State) : Host.Outcome State Fault Refusal :=
  match push s (s.pc + 1#13) with
  | .error r => .refused r
  | .ok t => .next { t with pc := jumpTarget s k }

/-- GOTO (R207): `pc` goes to `Target(k)` (R205). -/
def execGoto (k : BitVec 11) (s : State) : Host.Outcome State Fault Refusal :=
  .next { s with pc := jumpTarget s k }

end Sys2Proof.Machine
end

