-- ==== Sys2Proof/Machine/LoadStore.lean ====
section
/-!
DEFINITION. The load and store instructions of 45_load_store.md (R190 to R193).
-/

namespace Sys2Proof.Machine

/-- MOVWF (R190): the register is not read first; writes no flag. -/
def execMovwf (f : FileField) (s : State) : Host.Outcome State Fault Refusal :=
  finish (storeOp f (plainResult s.w) s)

/-- MOVF (R191): writes Z. -/
def execMovf (f : FileField) (d : Dest) (s : State) : Host.Outcome State Fault Refusal :=
  finish (byteOp f d zResult s)

/-- MOVLW (R192): writes no flag. -/
def execMovlw (k : Byte) (s : State) : Host.Outcome State Fault Refusal :=
  .next (literalOp (plainResult k) s)

/-- RETLW (R193): `W <- k; pc <- Pop()`; GIE is not changed. -/
def execRetlw (k : Byte) (s : State) : Host.Outcome State Fault Refusal :=
  finish (popToPc { s with w := k })

end Sys2Proof.Machine
end

