-- ==== Sys2Proof/Machine/OptionTris.lean ====
section
/-!
DEFINITION. OPTION and TRIS of 46_option_tris.md (R195, R196; assumption log 18). The bank bits play no part.
-/

namespace Sys2Proof.Machine

/-- OPTION (R195): `OPTION <- W`. -/
def execOption (s : State) : Host.Outcome State Fault Refusal :=
  .next { s.advance with optionReg := s.w }

/-- TRIS (R196): 5 is TRISA, 6 is TRISB, and at 7 the source lists no register. -/
def execTris (f : BitVec 3) (s : State) : Host.Outcome State Fault Refusal :=
  if f = 5#3 then .next { s.advance with trisA := s.w }
  else if f = 6#3 then .next { s.advance with trisB := s.w }
  else .refused .unlistedFileAddress

end Sys2Proof.Machine
end

