-- ==== Sys2Proof/Machine/RotateSwap.lean ====
section
/-!
DEFINITION. The rotate and swap instructions of 42_rotate_swap.md (R175 to R177).
-/

namespace Sys2Proof.Machine

/-- RRF (R175): the old C enters at bit 7; writes C only. -/
def execRrf (f : FileField) (d : Dest) (s : State) : Host.Outcome State Fault Refusal :=
  finish (byteOp f d (rotateRight s.flagC) s)

/-- RLF (R176): the old C enters at bit 0; writes C only. -/
def execRlf (f : FileField) (d : Dest) (s : State) : Host.Outcome State Fault Refusal :=
  finish (byteOp f d (rotateLeft s.flagC) s)

/-- SWAPF (R177): writes no flag. -/
def execSwapf (f : FileField) (d : Dest) (s : State) : Host.Outcome State Fault Refusal :=
  finish (byteOp f d (fun v => plainResult (swapNibbles v)) s)

end Sys2Proof.Machine
end

