-- ==== Sys2Proof/Machine/Skips.lean ====
section
/-!
DEFINITION. The conditional skips of 48_skips.md (R216 to R219).
-/

namespace Sys2Proof.Machine

/-- DECFSZ (R216): writes no flag. -/
def execDecfsz (f : FileField) (d : Dest) (s : State) : Host.Outcome State Fault Refusal :=
  finish (byteSkipOp f d (fun v => v - 1#8) s)

/-- INCFSZ (R217): writes no flag. -/
def execIncfsz (f : FileField) (d : Dest) (s : State) : Host.Outcome State Fault Refusal :=
  finish (byteSkipOp f d (fun v => v + 1#8) s)

/-- BTFSC (R218): skips when bit `b` is 0. -/
def execBtfsc (f : FileField) (b : BitIndex) (s : State) : Host.Outcome State Fault Refusal :=
  finish (bitSkipOp f b false s)

/-- BTFSS (R219): skips when bit `b` is 1. -/
def execBtfss (f : FileField) (b : BitIndex) (s : State) : Host.Outcome State Fault Refusal :=
  finish (bitSkipOp f b true s)

end Sys2Proof.Machine
end

