-- ==== Sys2Proof/Machine/Environment.lean ====
section
/-!
DEFINITION. What the environment does between two steps (60_exceptions.md R240) and what the core does at the boundary:
the interrupt condition (R233), the wake-up condition (R247), the reset sources (70_reset_and_hazards.md R270) and the
order among them (00_scope.md R10, R236).
-/

namespace Sys2Proof.Machine

/-- What the environment does before the next step; past the end of the schedule it does nothing (log 1). -/
def State.boundary (s : State) : Boundary := s.env.headD Boundary.quiet

/-- The interrupt flags the environment raises (R231, R240): it sets flags and clears none. EEIF only when the EEPROM
device is modelled. -/
def raiseFlags (b : Boundary) (s : State) : State :=
  let t : State :=
    { s with intcon := s.intcon ||| flagBit 8 2 b.t0Overflow ||| flagBit 8 1 b.intTrigger ||| flagBit 8 0 b.rbChange }
  if b.eeComplete && s.cfg.eepromDevice then completeEepromWrite t else t

/-- The values the environment draws at a boundary (R36 to R38, R45, R47; logs 2 and 3). -/
def drawInputs (s : State) : State :=
  { s with
    tmr0 := Config.draw .tmr0 s.tick
    pinsA := Config.draw .portA s.tick
    pinsB := Config.draw .portB s.tick
    tmr0Pre := Config.count .tmr0Pre s.tick
    wdt := Config.count .wdt s.tick
    wdtPre := Config.count .wdtPre s.tick }

/-- The boundary before a step: the environment has acted, and the schedule and the draws have moved on. -/
def openBoundary (s : State) : State :=
  let t := drawInputs (raiseFlags s.boundary s)
  { t with env := s.env.tail, tick := s.tick + 1 }

/-- `IntCond` (R233). -/
def intCond (s : State) : Bool :=
  s.intcon.getLsbD 7 &&
    ((s.intcon.getLsbD 5 && s.intcon.getLsbD 2) || (s.intcon.getLsbD 4 && s.intcon.getLsbD 1) ||
      (s.intcon.getLsbD 3 && s.intcon.getLsbD 0) || (s.intcon.getLsbD 6 && s.eeif))

/-- The part of `WakeCond` that interrupt flags make (R247): neither GIE nor Timer 0 enters. -/
def wakeFlags (s : State) : Bool :=
  (s.intcon.getLsbD 4 && s.intcon.getLsbD 1) || (s.intcon.getLsbD 3 && s.intcon.getLsbD 0) ||
    (s.intcon.getLsbD 6 && s.eeif)

/-- A watchdog time-out, possible only with `WDT_ENABLED` (R246). -/
def watchdogFires (b : Boundary) (s : State) : Bool := s.cfg.wdtEnabled && (b.line == .wdtTimeout)

/-- The wake-up (R247): a watchdog time-out clears /TO (R246), and `pc` stays. -/
def wakeUp (byWatchdog : Bool) (s : State) : State :=
  { s with sleeping := false, status := if byWatchdog then setBit s.status 4 false else s.status }

/-- What one step of the core is (R10). -/
inductive StepKind where
  /-- (1) The reset action. -/
  | reset (cause : ResetCause)
  /-- (2) Asleep, and nothing wakes the core. -/
  | idle
  /-- (2) The core wakes and executes one instruction in the same step. -/
  | wake (byWatchdog : Bool)
  /-- (3) The interrupt entry. -/
  | interrupt
  /-- (3) The entry is due and put off by `INT_DEFER_MAX`: an instruction executes. -/
  | runDeferred
  /-- (4) An instruction executes. -/
  | run
deriving DecidableEq, Repr

/-- The order of R10 and R236: reset, then sleep, then the interrupt, then the instruction. `s` is the state after the
boundary `b`. -/
def stepKind (b : Boundary) (s : State) : StepKind :=
  if b.line = .mclr then .reset .mclr
  else if s.sleeping then
    if watchdogFires b s then .wake true else if wakeFlags s then .wake false else .idle
  else if watchdogFires b s then .reset .watchdog
  else if intCond s then
    if b.deferInt && decide (s.deferred < s.cfg.intDeferMax) then .runDeferred else .interrupt
  else .run

/-- The interrupt condition no longer holds or is being served: deferral starts afresh (log 14). -/
def State.endDeferral (s : State) : State := { s with deferred := 0 }

/-- One more instruction runs before a due interrupt entry (R237). -/
def State.countDeferral (s : State) : State := { s with deferred := s.deferred + 1 }

end Sys2Proof.Machine
end

