-- ==== Sys2Proof/WellFormed.lean ====
section
/-!
DEFINITION. Which terms of the syntax are instructions the encoding can hold. Every operand has the width of its field
(R122), so the one check is the operand of TRIS, which is 5, 6 or 7 (30_encoding.md R125, R129; 46_option_tris.md R196).
-/

namespace Sys2Proof

/-- The operand check of R125 and R129. -/
def Instr.wellFormed (i : Instr) : Bool :=
  match i with
  | .tris f => 5 ≤ f.toNat
  | .nop => true
  | .ret => true
  | .retfie => true
  | .option => true
  | .sleep => true
  | .clrwdt => true
  | .movwf _ => true
  | .clrw => true
  | .clrf _ => true
  | .subwf _ _ => true
  | .decf _ _ => true
  | .iorwf _ _ => true
  | .andwf _ _ => true
  | .xorwf _ _ => true
  | .addwf _ _ => true
  | .movf _ _ => true
  | .comf _ _ => true
  | .incf _ _ => true
  | .decfsz _ _ => true
  | .rrf _ _ => true
  | .rlf _ _ => true
  | .swapf _ _ => true
  | .incfsz _ _ => true
  | .bcf _ _ => true
  | .bsf _ _ => true
  | .btfsc _ _ => true
  | .btfss _ _ => true
  | .call _ => true
  | .goto _ => true
  | .movlw _ => true
  | .retlw _ => true
  | .iorlw _ => true
  | .andlw _ => true
  | .xorlw _ => true
  | .sublw _ => true
  | .addlw _ => true

end Sys2Proof
end

