-- ==== Sys2Proof/Decode.lean ====
section
/-!
DEFINITION. The decoder of 30_encoding.md R126, total on the 16384 words and rejecting the 372 of R128 by name, and
after it the encoder of R125 (don't-care bits written as 0, R123). Both work on the one 14-bit word of R120.
-/

namespace Sys2Proof

/-- Why a word is no instruction. -/
inductive DecodeError where
  /-- One of the 372 words of R128, which no instruction is assigned to. -/
  | unassignedEncoding
deriving DecidableEq, Repr

/-- The `f` field, bits 6..0 (R122). -/
def fieldF (w : InstrWord) : FileField := w.extractLsb' 0 7

/-- The `d` field, bit 7 (R122). -/
def fieldD (w : InstrWord) : Dest := if w.getLsbD 7 then .f else .w

/-- The `b` field, bits 9..7 (R122). -/
def fieldB (w : InstrWord) : BitIndex := w.extractLsb' 7 3

/-- The literal `k` of the L format, bits 7..0 (R122). -/
def fieldK8 (w : InstrWord) : Byte := w.extractLsb' 0 8

/-- The program address `k` of the J format, bits 10..0 (R122). -/
def fieldK11 (w : InstrWord) : BitVec 11 := w.extractLsb' 0 11

/-- The operand of TRIS, bits 2..0 (R126). -/
def fieldTris (w : InstrWord) : BitVec 3 := w.extractLsb' 0 3

/-- The group `000o` of the source, words 0x0000..0x007F (R126, R129). -/
def decodeSimple (w : InstrWord) : Except DecodeError Instr :=
  let low := (fieldF w).toNat
  if low = 0x00 ∨ low = 0x20 ∨ low = 0x40 ∨ low = 0x60 then .ok .nop
  else if low = 0x08 then .ok .ret
  else if low = 0x09 then .ok .retfie
  else if low = 0x62 then .ok .option
  else if low = 0x63 then .ok .sleep
  else if low = 0x64 then .ok .clrwdt
  else if low = 0x65 ∨ low = 0x66 ∨ low = 0x67 then .ok (.tris (fieldTris w))
  else .error .unassignedEncoding

/-- `w[13:12] = 0b00`: the simple group and the byte-oriented file instructions (R126). -/
def decodeFile (w : InstrWord) : Except DecodeError Instr :=
  let f := fieldF w
  let d := fieldD w
  match (w.extractLsb' 8 4).toNat with
  | 0x0 => if w.getLsbD 7 then .ok (.movwf f) else decodeSimple w
  | 0x1 => if w.getLsbD 7 then .ok (.clrf f) else .ok .clrw
  | 0x2 => .ok (.subwf f d)
  | 0x3 => .ok (.decf f d)
  | 0x4 => .ok (.iorwf f d)
  | 0x5 => .ok (.andwf f d)
  | 0x6 => .ok (.xorwf f d)
  | 0x7 => .ok (.addwf f d)
  | 0x8 => .ok (.movf f d)
  | 0x9 => .ok (.comf f d)
  | 0xA => .ok (.incf f d)
  | 0xB => .ok (.decfsz f d)
  | 0xC => .ok (.rrf f d)
  | 0xD => .ok (.rlf f d)
  | 0xE => .ok (.swapf f d)
  | _ => .ok (.incfsz f d)

/-- `w[13:12] = 0b01`: the bit instructions (R126). -/
def decodeBit (w : InstrWord) : Except DecodeError Instr :=
  let f := fieldF w
  let b := fieldB w
  match (w.extractLsb' 10 2).toNat with
  | 0 => .ok (.bcf f b)
  | 1 => .ok (.bsf f b)
  | 2 => .ok (.btfsc f b)
  | _ => .ok (.btfss f b)

/-- `w[13:12] = 0b10`: CALL and GOTO (R126). -/
def decodeJump (w : InstrWord) : Except DecodeError Instr :=
  if w.getLsbD 11 then .ok (.goto (fieldK11 w)) else .ok (.call (fieldK11 w))

/-- `w[13:12] = 0b11`: the literal instructions (R126); bits 9..8 of MOVLW and RETLW and bit 8 of SUBLW and ADDLW are
ignored (R123). -/
def decodeLiteral (w : InstrWord) : Except DecodeError Instr :=
  let k := fieldK8 w
  match (w.extractLsb' 10 2).toNat with
  | 0 => .ok (.movlw k)
  | 1 => .ok (.retlw k)
  | 2 =>
    match (w.extractLsb' 8 2).toNat with
    | 0 => .ok (.iorlw k)
    | 1 => .ok (.andlw k)
    | 2 => .ok (.xorlw k)
    | _ => .error .unassignedEncoding
  | _ => if w.getLsbD 9 then .ok (.addlw k) else .ok (.sublw k)

/-- The decoding procedure of R126. -/
def decode (w : InstrWord) : Except DecodeError Instr :=
  match (w.extractLsb' 12 2).toNat with
  | 0 => decodeFile w
  | 1 => decodeBit w
  | 2 => decodeJump w
  | _ => decodeLiteral w

/-- The `d` bit of a destination (R89). -/
def Dest.bit (d : Dest) : BitVec 1 :=
  match d with
  | .w => 0#1
  | .f => 1#1

/-- The word of an instruction (R125), every don't-care bit 0 (R123). -/
def encode (i : Instr) : InstrWord :=
  match i with
  | .nop => 0x0000#14
  | .ret => 0x0008#14
  | .retfie => 0x0009#14
  | .option => 0x0062#14
  | .sleep => 0x0063#14
  | .clrwdt => 0x0064#14
  | .tris f => 0b00000001100#11 ++ f
  | .movwf f => 0b0000001#7 ++ f
  | .clrw => 0x0100#14
  | .clrf f => 0b0000011#7 ++ f
  | .subwf f d => 0b000010#6 ++ d.bit ++ f
  | .decf f d => 0b000011#6 ++ d.bit ++ f
  | .iorwf f d => 0b000100#6 ++ d.bit ++ f
  | .andwf f d => 0b000101#6 ++ d.bit ++ f
  | .xorwf f d => 0b000110#6 ++ d.bit ++ f
  | .addwf f d => 0b000111#6 ++ d.bit ++ f
  | .movf f d => 0b001000#6 ++ d.bit ++ f
  | .comf f d => 0b001001#6 ++ d.bit ++ f
  | .incf f d => 0b001010#6 ++ d.bit ++ f
  | .decfsz f d => 0b001011#6 ++ d.bit ++ f
  | .rrf f d => 0b001100#6 ++ d.bit ++ f
  | .rlf f d => 0b001101#6 ++ d.bit ++ f
  | .swapf f d => 0b001110#6 ++ d.bit ++ f
  | .incfsz f d => 0b001111#6 ++ d.bit ++ f
  | .bcf f b => 0b0100#4 ++ b ++ f
  | .bsf f b => 0b0101#4 ++ b ++ f
  | .btfsc f b => 0b0110#4 ++ b ++ f
  | .btfss f b => 0b0111#4 ++ b ++ f
  | .call k => 0b100#3 ++ k
  | .goto k => 0b101#3 ++ k
  | .movlw k => 0b110000#6 ++ k
  | .retlw k => 0b110100#6 ++ k
  | .iorlw k => 0b111000#6 ++ k
  | .andlw k => 0b111001#6 ++ k
  | .xorlw k => 0b111010#6 ++ k
  | .sublw k => 0b111100#6 ++ k
  | .addlw k => 0b111110#6 ++ k

/-- What the decoder reads from an instruction whose bits are `w`, numbered as the opcode table numbers them: a program
word is one 14-bit unit (R120), so no byte order enters, and a number of more than 14 bits is no word. -/
def decodeTableWord (_nbits w : Nat) : Option Instr :=
  if w < 0x4000 then
    match decode (BitVec.ofNat 14 w) with
    | .ok i => some i
    | .error _ => none
  else none

end Sys2Proof
end

