-- ==== Sys2Proof/Machine/Fetch.lean ====
section
/-!
DEFINITION. Fetching and decoding the word at `pc` (20_memory.md R92, 30_encoding.md R126, R128), and placing a word
where the next fetch reads it, which is a load from outside the machine (assumption log 8).
-/

namespace Sys2Proof.Machine

/-- `ProgRead(pc)` (R92) and its decoding (R126). -/
def fetch (s : State) : Except Refusal Instr :=
  match s.prog.read s.pc.toNat with
  | none => .error .fetchOutsideProgram
  | some word =>
    match decode word with
    | .ok i => .ok i
    | .error .unassignedEncoding => .error .unassignedEncoding

/-- `s` with a program word at `pc`. -/
def placeWord (s : State) (w : Nat) : State := { s with prog := s.prog.write s.pc.toNat (BitVec.ofNat 14 w) }

end Sys2Proof.Machine
end

