-- ==== Sys2Proof/Machine/Step.lean ====
section
/-!
DEFINITION. One step of the machine (00_scope.md R10): the environment acts at the boundary (60_exceptions.md R240),
then the core resets, sleeps, wakes, takes the interrupt or executes one instruction.
-/

namespace Sys2Proof.Machine

/-- (4) of R10: fetch, decode, and perform the rule of the decoded instruction. -/
def fetchExec (s : State) : Host.Outcome State Fault Refusal :=
  match fetch s with
  | .error r => .refused r
  | .ok i => exec i s

/-- One step of the core (R10), after the boundary `b` has made the state `s`. -/
def coreStep (b : Boundary) (s : State) : Host.Outcome State Fault Refusal :=
  match stepKind b s with
  | .reset cause => .next (resetAction cause s)
  | .idle => .next s
  | .wake byWatchdog => fetchExec (wakeUp byWatchdog s)
  | .interrupt => finish (takeInterrupt s.endDeferral)
  | .runDeferred => fetchExec s.countDeferral
  | .run => fetchExec s.endDeferral

/-- One step of the machine: the boundary, then the core. -/
def step (s : State) : Host.Outcome State Fault Refusal := coreStep s.boundary (openBoundary s)

/-- `s` with an instruction word at `pc`, where the next fetch reads (R92; log 8). From `State.reset` the core is awake,
no interrupt is enabled and the schedule is empty, so the next step runs it. -/
def State.withFetchWord (s : State) (_nbits w : Nat) : State := placeWord s w

end Sys2Proof.Machine
end

