-- ==== Sys2Proof/Safety.lean ====
section
/-!
DEFINITION. The terms claims are stated in: a safe run, which file addresses an instruction can use, where an
instruction stores, the shapes that the instruction rules share, and the invariant every step keeps.
-/

namespace Sys2Proof.Machine

/-- A run of `k` steps that meets no refusal (93_implementation_defined.md part 2: a proof about a program must show
none is reachable). -/
def runsSafely (k : Nat) (s : State) : Prop := ∃ t, Host.Core.run Sys2Proof.core k s = .next t

/-- Whether `FILE_MAP` makes the in-bank address data memory where the source lists no special function register: the
file addresses 0x07 and 0x0C upward (10_state.md R50, R51). -/
def isDataAddr (cfg : Config) (r : FileField) : Bool :=
  (decide (r.toNat = 0x07) || decide (0x0C ≤ r.toNat)) && inDataRanges cfg r

/-- Whether a file access at `a` has a meaning: bit 8 is 0 (20_memory.md R84), the map lists a register there (10_state.md
R50, R51), and EECON1 and EECON2 only with the EEPROM device (R40). Said by arithmetic on the address alone. -/
def accessible (s : State) (a : FileAddr) : Bool :=
  !a.getLsbD 8 &&
    (decide (a.toNat % 0x80 ≤ 0x06) || decide (a.toNat % 0x80 = 0x0A) || decide (a.toNat % 0x80 = 0x0B) ||
      (decide (a.toNat % 0x80 = 0x08 ∨ a.toNat % 0x80 = 0x09) && (!a.getLsbD 7 || s.cfg.eepromDevice)) ||
      isDataAddr s.cfg (inBank a))

/-- `t` is `u` with the named flags set to the given values: a flag that is `none`, every other STATUS bit and every
other part of the state are as in `u`. -/
def FlagsSet (u t : State) (z dc c : Option Bool) : Prop :=
  t = { u with status := t.status } ∧
    t.status.extractLsb' 3 5 = u.status.extractLsb' 3 5 ∧
    t.flagZ = z.getD u.flagZ ∧ t.flagDC = dc.getD u.flagDC ∧ t.flagC = c.getD u.flagC

/-- The shape of the byte-oriented rules (20_memory.md R88, R89): for every accessible operand the instruction reads
`v`, stores `result` in W or at the same address, steps the program counter unless it stored there, and writes the
flags it names and nothing else. -/
def ByteRule (mk : FileField → Dest → Instr) (writesFlags : Bool) (result : State → Byte → Byte)
    (z dc c : State → Byte → Option Bool) : Prop :=
  ∀ (f : FileField) (d : Dest) (s : State), accessible s (effAddr s f) = true →
    ∃ v u t, memRead s (effAddr s f) = .ok v ∧
      (d = .w → u = { s with pc := s.pc + 1#13, w := result s v }) ∧
      (d = .f → memWrite { s with pc := s.pc + 1#13 } (effAddr s f) writesFlags (result s v) = .ok u) ∧
      exec (mk f d) s = .next t ∧ FlagsSet u t (z s v) (dc s v) (c s v)

/-- The shape of the literal rules (40_arith_logic.md section 3): W receives `result`, the program counter steps, and
the named flags are written, in every state. -/
def LiteralRule (mk : Byte → Instr) (result : State → Byte → Byte) (z dc c : State → Byte → Option Bool) : Prop :=
  ∀ (k : Byte) (s : State), ∃ t, exec (mk k) s = .next t ∧
    FlagsSet { s with pc := s.pc + 1#13, w := result s k } t (z s k) (dc s k) (c s k)

/-- A flag that a rule does not write. -/
def notWritten : State → Byte → Option Bool := fun _ _ => none

/-- Every word that matches decodes to the byte-oriented instruction with its fields f and d (30_encoding.md R122,
R125). -/
def ByteEncoding (mk : FileField → Dest → Instr) (pattern : InstrWord) : Prop :=
  ∀ w : InstrWord, w &&& 0x3F00#14 = pattern →
    decode w = .ok (mk (w.extractLsb' 0 7) (if w.getLsbD 7 then .f else .w))

/-- Every word that matches decodes to the literal instruction with its field k, whatever the bits outside the mask
(30_encoding.md R122, R123, R125). -/
def LiteralEncoding (mk : Byte → Instr) (mask pattern : InstrWord) : Prop :=
  ∀ w : InstrWord, w &&& mask = pattern → decode w = .ok (mk (w.extractLsb' 0 8))

/-- Every word that matches decodes to the bit instruction with its fields f and b (30_encoding.md R122, R125). -/
def BitEncoding (mk : FileField → BitIndex → Instr) (pattern : InstrWord) : Prop :=
  ∀ w : InstrWord, w &&& 0x3C00#14 = pattern → decode w = .ok (mk (w.extractLsb' 0 7) (w.extractLsb' 7 3))

/-- The one word decodes to the instruction (30_encoding.md R125). -/
def WordEncoding (i : Instr) (word : InstrWord) : Prop := decode word = .ok i

/-- The file operand `f` of an instruction, if it has one (30_encoding.md R132; TRIS names its register itself). -/
def fileOperand (i : Instr) : Option FileField :=
  match i with
  | .movwf f | .clrf f => some f
  | .subwf f _ | .decf f _ | .iorwf f _ | .andwf f _ | .xorwf f _ | .addwf f _ | .movf f _ | .comf f _ => some f
  | .incf f _ | .decfsz f _ | .rrf f _ | .rlf f _ | .swapf f _ | .incfsz f _ => some f
  | .bcf f _ | .bsf f _ | .btfsc f _ | .btfss f _ => some f
  | .nop | .ret | .retfie | .option | .sleep | .clrwdt | .tris _ | .clrw => none
  | .call _ | .goto _ | .movlw _ | .retlw _ | .iorlw _ | .andlw _ | .xorlw _ | .sublw _ | .addlw _ => none

/-- The destination bit of the fourteen instructions that have one (30_encoding.md R121, format FD). -/
def destOperand (i : Instr) : Option Dest :=
  match i with
  | .subwf _ d | .decf _ d | .iorwf _ d | .andwf _ d | .xorwf _ d | .addwf _ d | .movf _ d | .comf _ d => some d
  | .incf _ d | .decfsz _ d | .rrf _ d | .rlf _ d | .swapf _ d | .incfsz _ d => some d
  | .nop | .ret | .retfie | .option | .sleep | .clrwdt | .tris _ | .movwf _ | .clrw | .clrf _ => none
  | .bcf _ _ | .bsf _ _ | .btfsc _ _ | .btfss _ _ | .call _ | .goto _ | .movlw _ | .retlw _ => none
  | .iorlw _ | .andlw _ | .xorlw _ | .sublw _ | .addlw _ => none

/-- Whether an instruction writes its file operand (20_memory.md R88): `d = 1`, or MOVWF, CLRF, BCF, BSF. -/
def storesFile (i : Instr) : Bool :=
  match i with
  | .movwf _ | .clrf _ | .bcf _ _ | .bsf _ _ => true
  | _ => destOperand i == some .f

/-- The file address an instruction stores to: the effective address of its operand in the state it starts in (R88). -/
def storesTo (i : Instr) (s : State) : Option FileAddr :=
  if storesFile i then (fileOperand i).map (effAddr s) else none

/-- The instruction stores to the register `reg`. -/
def StoresReg (i : Instr) (s : State) (reg : FileReg) : Prop :=
  ∃ a, storesTo i s = some a ∧ fileReg s.cfg a = .ok reg

/-- The instruction writes W (10_state.md R20): `d = 0`, the literal instructions, CLRW. -/
def writesW (i : Instr) : Bool :=
  match i with
  | .clrw | .movlw _ | .retlw _ | .iorlw _ | .andlw _ | .xorlw _ | .sublw _ | .addlw _ => true
  | _ => destOperand i == some .w

/-- The instruction reads W as an operand (10_state.md R20). -/
def readsW (i : Instr) : Bool :=
  match i with
  | .subwf _ _ | .iorwf _ _ | .andwf _ _ | .xorwf _ _ | .addwf _ _ => true
  | .iorlw _ | .andlw _ | .xorlw _ | .sublw _ | .addlw _ => true
  | .movwf _ | .option | .tris _ => true
  | _ => false

/-- The instruction's own rule writes Z (10_state.md R27). -/
def writesZ (i : Instr) : Bool :=
  match i with
  | .subwf _ _ | .iorwf _ _ | .andwf _ _ | .xorwf _ _ | .addwf _ _ => true
  | .iorlw _ | .andlw _ | .xorlw _ | .sublw _ | .addlw _ => true
  | .decf _ _ | .incf _ _ | .clrw | .clrf _ | .comf _ _ | .movf _ _ => true
  | _ => false

/-- The instruction's own rule writes DC (10_state.md R28). -/
def writesDC (i : Instr) : Bool :=
  match i with
  | .addwf _ _ | .addlw _ | .subwf _ _ | .sublw _ => true
  | _ => false

/-- The instruction's own rule writes C (10_state.md R29). -/
def writesC (i : Instr) : Bool :=
  match i with
  | .addwf _ _ | .addlw _ | .subwf _ _ | .sublw _ | .rrf _ _ | .rlf _ _ => true
  | _ => false

/-- The conditional skips (48_skips.md R215). -/
def isSkip (i : Instr) : Bool :=
  match i with
  | .decfsz _ _ | .incfsz _ _ | .btfsc _ _ | .btfss _ _ => true
  | _ => false

/-- The instructions that pop the return stack (20_memory.md R99). -/
def isReturn (i : Instr) : Bool :=
  match i with
  | .ret | .retfie | .retlw _ => true
  | _ => false

/-- CALL and GOTO (47_jumps_system.md R205). -/
def isJump (i : Instr) : Bool :=
  match i with
  | .call _ | .goto _ => true
  | _ => false

/-- An outcome with its next state changed by `f`. -/
def mapNext (f : State → State) (o : Host.Outcome State Fault Refusal) : Host.Outcome State Fault Refusal :=
  match o with
  | .next t => .next (f t)
  | .fault r => .fault r
  | .refused r => .refused r

/-- The core is awake at the boundary `b`, no reset is asserted and the watchdog does not fire: what decides between
the interrupt and the next instruction (00_scope.md R10). -/
def Awake (b : Boundary) (s : State) : Prop :=
  s.sleeping = false ∧ b.line ≠ .mclr ∧ ¬(b.line = .wdtTimeout ∧ s.cfg.wdtEnabled = true)

/-- An enabled source is pending (60_exceptions.md R233), GIE apart. -/
def SourcePending (s : State) : Prop :=
  (s.intcon.getLsbD 5 = true ∧ s.intcon.getLsbD 2 = true) ∨ (s.intcon.getLsbD 4 = true ∧ s.intcon.getLsbD 1 = true) ∨
    (s.intcon.getLsbD 3 = true ∧ s.intcon.getLsbD 0 = true) ∨
    (s.intcon.getLsbD 6 = true ∧ s.eecon1.getLsbD 4 = true)

/-- The step from `s` runs the instruction `i` (00_scope.md R10): it is no reset, no interrupt entry and no idle step
of a sleeping core, and `i` is what the word at `pc` decodes to. -/
def StepRan (s : State) (i : Instr) : Prop :=
  (stepKind s.boundary (openBoundary s) = .run ∨ stepKind s.boundary (openBoundary s) = .runDeferred ∨
    ∃ byWatchdog, stepKind s.boundary (openBoundary s) = .wake byWatchdog) ∧
  ∃ w, s.prog.read s.pc.toNat = some w ∧ decode w = .ok i

/-- What every reachable state has in common. -/
structure State.Inv (s : State) : Prop where
  /-- The data memory is in canonical form, at 7-bit in-bank addresses. -/
  dataWf : s.data.wf 0x80 = true
  /-- It lists only addresses the file map makes data memory (10_state.md R50, R51). -/
  dataMapped : ∀ cell ∈ s.data, isDataAddr s.cfg (BitVec.ofNat 7 cell.1) = true
  /-- The EEPROM is in canonical form, 64 bytes (10_state.md R44). -/
  eepromWf : s.eeprom.wf 0x40 = true
  /-- The program has 13-bit addresses in rising order (10_state.md R43). -/
  progWf : s.prog.wf = true
  /-- The return stack has at most `STACK_DEPTH` entries (10_state.md R42). -/
  stackBound : s.stack.length ≤ s.cfg.stackDepth
  /-- At most `INT_DEFER_MAX` instructions have run since the interrupt was due (60_exceptions.md R237). -/
  deferBound : s.deferred ≤ s.cfg.intDeferMax
  /-- A sleeping core has /TO = 1 and /PD = 0 (47_jumps_system.md R203, 60_exceptions.md R247). -/
  asleep : s.sleeping = true → s.toN = true ∧ s.pdN = false
  /-- WR is 1 exactly while an EEPROM write is in progress (10_state.md R40). -/
  eeBusy : s.eePending.isSome = s.eecon1.getLsbD 1
  /-- RD reads 0: a read is complete with the instruction that starts it (log 13). -/
  eeRead : s.eecon1.getLsbD 0 = false
  /-- Without the EEPROM device its control state stays as reset leaves it (10_state.md R40). -/
  eeAbsent : s.cfg.eepromDevice = false → s.eecon1 = 0 ∧ s.eeUnlock = .locked ∧ s.eePending = none

end Sys2Proof.Machine
end

