-- ==== Sys2Proof/Certificates/Slice0/Obligations.lean ====
section
/-!
DEFINITION. The statements for the provers. Each follows the numbered rules its docstring names; where a clause rests on
a decision the spec marks as its own or on a choice of the model, the docstring says so and names it.
-/

open Sys2Proof Sys2Proof.Machine

/-! ### Encoding (30_encoding.md) -/

/-- R125, R126: decoding the word of a well-formed instruction gives the instruction back, with every operand at every
value. -/
def Obligations.DecodeEncodeRoundTrip : Prop :=
  ∀ i : Instr, i.wellFormed = true → decode (encode i) = .ok i

/-- R128: the words no instruction is assigned to, and that fetching one is refused (decision D17), whatever the state
at the boundary. -/
def Obligations.UnassignedWordsAreExactlyTheListed : Prop :=
  (∀ w : InstrWord, decode w = .error .unassignedEncoding ↔
    (0x0001 ≤ w.toNat ∧ w.toNat ≤ 0x0007) ∨ (0x000A ≤ w.toNat ∧ w.toNat ≤ 0x001F) ∨
    (0x0021 ≤ w.toNat ∧ w.toNat ≤ 0x003F) ∨ (0x0041 ≤ w.toNat ∧ w.toNat ≤ 0x005F) ∨ w.toNat = 0x0061 ∨
    (0x0068 ≤ w.toNat ∧ w.toNat ≤ 0x007F) ∨ (0x3B00 ≤ w.toNat ∧ w.toNat ≤ 0x3BFF)) ∧
  (∀ (s : State) (w : InstrWord), s.prog.read s.pc.toNat = some w → decode w = .error .unassignedEncoding →
    fetchExec s = .refused .unassignedEncoding)

/-- Words of the source's Code List (95_test_vectors.md section 1.1), one or two of each family, and 0x0060, which the
Code List does not show: that it is NOP comes from the Code Tree (section 1.3) and R129. -/
def Obligations.CodeListWordsDecode : Prop :=
  decode 0x07A0#14 = .ok (.addwf 0x20#7 .f) ∧ decode 0x3D05#14 = .ok (.sublw 0x05#8) ∧
  decode 0x0320#14 = .ok (.decf 0x20#7 .w) ∧ decode 0x0CA0#14 = .ok (.rrf 0x20#7 .f) ∧
  decode 0x1683#14 = .ok (.bsf 0x03#7 5#3) ∧ decode 0x017F#14 = .ok .clrw ∧
  decode 0x33AB#14 = .ok (.movlw 0xAB#8) ∧ decode 0x0066#14 = .ok (.tris 6#3) ∧
  decode 0x2923#14 = .ok (.goto 0x123#11) ∧ decode 0x0060#14 = .ok .nop ∧ decode 0x1F83#14 = .ok (.btfss 0x03#7 7#3)

/-! ### Fetch and step (00_scope.md R10) -/

/-- R10 step (4), whose order is decision D1: when the core is awake, nothing resets it and the interrupt is not due, a
step runs the decoded instruction in the state after the boundary. The counter of put-off instructions is the model's
own (log 14). -/
def Obligations.StepRunsTheDecodedInstruction : Prop :=
  ∀ (s : State) (w : InstrWord) (i : Instr), Awake s.boundary (openBoundary s) →
    ¬((openBoundary s).intcon.getLsbD 7 = true ∧ SourcePending (openBoundary s)) →
    s.prog.read s.pc.toNat = some w → decode w = .ok i →
    step s = exec i { openBoundary s with deferred := 0 }

/-- R92, decision D8: a fetch from an address the loaded program does not define is refused. -/
def Obligations.FetchOutsideProgramIsRefused : Prop :=
  ∀ s : State, s.prog.read s.pc.toNat = none → fetchExec s = .refused .fetchOutsideProgram

/-! ### Operands and file access (20_memory.md, 10_state.md) -/

/-- R82, R83: the effective address is RP1:RP0:f for a field other than zero and IRP:FSR for zero. -/
def Obligations.EffectiveAddressFollowsTheBankBits : Prop :=
  ∀ (s : State) (f : FileField),
    (f ≠ 0x00#7 →
      (effAddr s f).toNat =
        0x100 * (s.status.getLsbD 6).toNat + 0x80 * (s.status.getLsbD 5).toNat + f.toNat) ∧
    (f = 0x00#7 → (effAddr s f).toNat = 0x100 * (s.status.getLsbD 7).toNat + s.fsr.toNat)

/-- R86 for the source's file map without the EEPROM device. The rows marked decisions D3 (the data memory, the same
byte in either bank, log 26), D5, D6, D11, D14, D16 and D20 are the spec's own; a draw is the value the boundary has put
into the field (logs 2 and 7). -/
def Obligations.MemReadReturnsEveryRegister : Prop :=
  ∀ (s : State) (a : FileAddr), s.cfg.dataRanges = [(0x20, 0x6F), (0x70, 0x7F)] → s.cfg.eepromDevice = false →
    (a.getLsbD 8 = true → memRead s a = .error .bankBit8) ∧
    (a.getLsbD 8 = false →
      (a.toNat % 0x80 = 0x00 → memRead s a = .ok 0x00#8) ∧
      (a.toNat % 0x80 = 0x01 → memRead s a = .ok (if a.getLsbD 7 then s.optionReg else s.tmr0)) ∧
      (a.toNat % 0x80 = 0x02 → memRead s a = .ok (BitVec.ofNat 8 (s.pc.toNat + 1))) ∧
      (a.toNat % 0x80 = 0x03 → memRead s a = .ok s.status) ∧
      (a.toNat % 0x80 = 0x04 → memRead s a = .ok s.fsr) ∧
      (a.toNat % 0x80 = 0x05 → memRead s a = .ok (if a.getLsbD 7 then s.trisA else s.pinsA)) ∧
      (a.toNat % 0x80 = 0x06 → memRead s a = .ok (if a.getLsbD 7 then s.trisB else s.pinsB)) ∧
      (a.toNat % 0x80 = 0x08 → memRead s a = if a.getLsbD 7 then .error .eepromControl else .ok s.eedata) ∧
      (a.toNat % 0x80 = 0x09 →
        memRead s a = if a.getLsbD 7 then .error .eepromControl else .ok (BitVec.ofNat 8 s.eeadr.toNat)) ∧
      (a.toNat % 0x80 = 0x0A → memRead s a = .ok (BitVec.ofNat 8 s.pclath.toNat)) ∧
      (a.toNat % 0x80 = 0x0B → memRead s a = .ok s.intcon) ∧
      (a.toNat % 0x80 = 0x07 ∨ (0x0C ≤ a.toNat % 0x80 ∧ a.toNat % 0x80 ≤ 0x1F) →
        memRead s a = .error .unlistedFileAddress) ∧
      (0x20 ≤ a.toNat % 0x80 → memRead s a = .ok (s.data.read (a.toNat % 0x80))))

/-- R87 for the source's file map without the EEPROM device: what a write stores, and that nothing else changes. The
rows marked decisions D3 (the data memory, one copy stored from either bank, log 26), D5, D6, D12, D13, D14, D16 and
D20 are the spec's own; that TMR0 holds the written value until the next draw is log 2. -/
def Obligations.MemWriteStoresEveryRegister : Prop :=
  ∀ (s : State) (a : FileAddr) (fl : Bool) (v : Byte),
    s.cfg.dataRanges = [(0x20, 0x6F), (0x70, 0x7F)] → s.cfg.eepromDevice = false →
    (a.getLsbD 8 = true → memWrite s a fl v = .error .bankBit8) ∧
    (a.getLsbD 8 = false →
      (a.toNat % 0x80 = 0x00 → memWrite s a fl v = .ok s) ∧
      (a.toNat % 0x80 = 0x01 →
        memWrite s a fl v = .ok (if a.getLsbD 7 then { s with optionReg := v } else { s with tmr0 := v })) ∧
      (a.toNat % 0x80 = 0x02 →
        memWrite s a fl v = .ok { s with pc := BitVec.ofNat 13 (s.pclath.toNat * 0x100 + v.toNat) }) ∧
      (a.toNat % 0x80 = 0x03 → ∃ t, memWrite s a fl v = .ok t ∧ t = { s with status := t.status } ∧
        t.status.extractLsb' 5 3 = v.extractLsb' 5 3 ∧ t.status.extractLsb' 3 2 = s.status.extractLsb' 3 2 ∧
        t.status.extractLsb' 0 3 = if fl then s.status.extractLsb' 0 3 else v.extractLsb' 0 3) ∧
      (a.toNat % 0x80 = 0x04 → memWrite s a fl v = .ok { s with fsr := v }) ∧
      (a.toNat % 0x80 = 0x05 →
        memWrite s a fl v = .ok (if a.getLsbD 7 then { s with trisA := v } else { s with latA := v })) ∧
      (a.toNat % 0x80 = 0x06 →
        memWrite s a fl v = .ok (if a.getLsbD 7 then { s with trisB := v } else { s with latB := v })) ∧
      (a.toNat % 0x80 = 0x08 →
        memWrite s a fl v = if a.getLsbD 7 then .error .eepromControl else .ok { s with eedata := v }) ∧
      (a.toNat % 0x80 = 0x09 → memWrite s a fl v =
        if a.getLsbD 7 then .error .eepromControl else .ok { s with eeadr := BitVec.ofNat 6 v.toNat }) ∧
      (a.toNat % 0x80 = 0x0A → memWrite s a fl v = .ok { s with pclath := BitVec.ofNat 5 v.toNat }) ∧
      (a.toNat % 0x80 = 0x0B → memWrite s a fl v = .ok { s with intcon := v }) ∧
      (a.toNat % 0x80 = 0x07 ∨ (0x0C ≤ a.toNat % 0x80 ∧ a.toNat % 0x80 ≤ 0x1F) →
        memWrite s a fl v = .error .unlistedFileAddress) ∧
      (0x20 ≤ a.toNat % 0x80 →
        memWrite s a fl v = .ok { s with data := s.data.write (a.toNat % 0x80) v }))

/-- R84, R51, R40 (decisions D5, D6, D20): every instruction with a file operand is refused by name where the operand's
address has bit 8 set, names no listed register, or names EECON1 or EECON2 without the device. -/
def Obligations.InaccessibleOperandRefusesEveryFileInstruction : Prop :=
  ∀ (i : Instr) (f : FileField) (s : State), fileOperand i = some f →
    ((effAddr s f).getLsbD 8 = true → exec i s = .refused .bankBit8) ∧
    ((effAddr s f).getLsbD 8 = false →
      ((effAddr s f).toNat % 0x80 = 0x07 ∨ 0x0C ≤ (effAddr s f).toNat % 0x80) →
      inDataRanges s.cfg (inBank (effAddr s f)) = false → exec i s = .refused .unlistedFileAddress) ∧
    ((effAddr s f).toNat = 0x88 ∨ (effAddr s f).toNat = 0x89 → s.cfg.eepromDevice = false →
      exec i s = .refused .eepromControl)

/-- R41 (decision D3) and R190, R191: a byte stored in the data memory by MOVWF is loaded by MOVF through either bank,
and every other data byte keeps its value. -/
def Obligations.StoredByteIsLoadedThroughEitherBank : Prop :=
  ∀ (s : State) (f : FileField) (bank : Bool), s.data.wf 0x80 = true → isDataAddr s.cfg f = true →
    s.status.getLsbD 6 = false →
    ∃ t u, exec (.movwf f) s = .next t ∧
      exec (.movf f .w) { t with status := setBit t.status 5 bank } = .next u ∧ u.w = s.w ∧
      ∀ r : Nat, r ≠ f.toNat → t.data.read r = s.data.read r

/-- R40 and 93_implementation_defined.md G5 for a model with the EEPROM device (PRESUMED details in log 13): with WREN
set and no write in progress, 0x55 and 0xAA to EECON2 and WR to EECON1 start a write of EEDATA to EEADR, whose
completion puts the byte into the EEPROM, clears WR and raises EEIF. -/
def Obligations.EepromWriteSequenceStoresTheByte : Prop :=
  ∀ (s : State) (v : Byte) (b : Boundary), s.cfg.eepromDevice = true → s.eeprom.wf 0x40 = true →
    s.eecon1.getLsbD 2 = true → s.eecon1.getLsbD 1 = false → v.getLsbD 1 = true → v.getLsbD 0 = false →
    b.eeComplete = true →
    ∃ t1 t2 t3, memWrite s 0x089#9 false 0x55#8 = .ok t1 ∧ memWrite t1 0x089#9 false 0xAA#8 = .ok t2 ∧
      memWrite t2 0x088#9 false v = .ok t3 ∧ t3.eecon1.getLsbD 1 = true ∧ t3.eeprom = s.eeprom ∧
      (raiseFlags b t3).eeprom.read s.eeadr.toNat = s.eedata ∧
      (∀ a : Nat, a ≠ s.eeadr.toNat → (raiseFlags b t3).eeprom.read a = s.eeprom.read a) ∧
      (raiseFlags b t3).eecon1.getLsbD 1 = false ∧ (raiseFlags b t3).eecon1.getLsbD 4 = true

/-- R40 and G5 for a model with the EEPROM device (log 13): EECON2 reads 0x00, RD copies the addressed byte to EEDATA,
and WR starts no write while WREN is 0 or EECON2 has not unlocked it. That EECON1 reads with its high bits 0 is decision
D16 (log 24, PRESUMED). -/
def Obligations.EepromReadAndLockedWrite : Prop :=
  ∀ (s : State) (v : Byte), s.cfg.eepromDevice = true →
    memRead s 0x088#9 = .ok (BitVec.ofNat 8 s.eecon1.toNat) ∧ memRead s 0x089#9 = .ok 0x00#8 ∧
    ∃ t, memWrite s 0x088#9 false v = .ok t ∧
      (v.getLsbD 0 = true → t.eedata = s.eeprom.read s.eeadr.toNat) ∧ (v.getLsbD 0 = false → t.eedata = s.eedata) ∧
      t.eeprom = s.eeprom ∧ t.data = s.data ∧
      (s.eecon1.getLsbD 2 = false ∨ s.eeUnlock ≠ .unlocked → t.eePending = s.eePending)

/-! ### Instructions (files 40 to 48) -/

/-- R150, R156, R161: ADDWF and ADDLW with their encodings, their sum and the flags C, DC and Z; ADDWF with destination
PCL is the computed jump, whose carry does not reach the high PC bits. That the jump adds W to pc + 1 rests on the value
a read of PCL gives, which is decision D11 (R22; log 22, PRESUMED). -/
def Obligations.AdditionWritesSumAndCarries : Prop :=
  ByteEncoding .addwf 0x0700#14 ∧ LiteralEncoding .addlw 0x3E00#14 0x3E00#14 ∧
  ByteRule .addwf true (fun s v => BitVec.ofNat 8 (s.w.toNat + v.toNat))
    (fun s v => some (decide ((s.w.toNat + v.toNat) % 0x100 = 0)))
    (fun s v => some (decide (0xF < s.w.toNat % 0x10 + v.toNat % 0x10)))
    (fun s v => some (decide (0xFF < s.w.toNat + v.toNat))) ∧
  LiteralRule .addlw (fun s k => BitVec.ofNat 8 (s.w.toNat + k.toNat))
    (fun s k => some (decide ((s.w.toNat + k.toNat) % 0x100 = 0)))
    (fun s k => some (decide (0xF < s.w.toNat % 0x10 + k.toNat % 0x10)))
    (fun s k => some (decide (0xFF < s.w.toNat + k.toNat))) ∧
  (∀ (f : FileField) (s : State), (effAddr s f).toNat = 0x002 ∨ (effAddr s f).toNat = 0x082 →
    ∃ t, exec (.addwf f .f) s = .next t ∧
      t.pc.toNat = s.pclath.toNat * 0x100 + (s.pc.toNat + 1 + s.w.toNat) % 0x100)

/-- R151, R152, R160: SUBWF is f - W and SUBLW is k - W. That C and DC are 1 for no borrow is decision D15, which the
spec marks as its own (log 19). -/
def Obligations.SubtractionWritesDifferenceAndBorrows : Prop :=
  ByteEncoding .subwf 0x0200#14 ∧ LiteralEncoding .sublw 0x3E00#14 0x3C00#14 ∧
  ByteRule .subwf true (fun s v => BitVec.ofInt 8 ((v.toNat : Int) - (s.w.toNat : Int)))
    (fun s v => some (decide (v = s.w)))
    (fun s v => some (decide (s.w.toNat % 0x10 ≤ v.toNat % 0x10)))
    (fun s v => some (decide (s.w.toNat ≤ v.toNat))) ∧
  LiteralRule .sublw (fun s k => BitVec.ofInt 8 ((k.toNat : Int) - (s.w.toNat : Int)))
    (fun s k => some (decide (k = s.w)))
    (fun s k => some (decide (s.w.toNat % 0x10 ≤ k.toNat % 0x10)))
    (fun s k => some (decide (s.w.toNat ≤ k.toNat)))

/-- R153, R154, R155: IORWF, ANDWF and XORWF with their encodings; Z alone is written. -/
def Obligations.LogicWithFileRegisterWritesZOnly : Prop :=
  ByteEncoding .iorwf 0x0400#14 ∧ ByteEncoding .andwf 0x0500#14 ∧ ByteEncoding .xorwf 0x0600#14 ∧
  ByteRule .iorwf true (fun s v => s.w ||| v) (fun s v => some (decide ((s.w ||| v) = 0))) notWritten notWritten ∧
  ByteRule .andwf true (fun s v => s.w &&& v) (fun s v => some (decide ((s.w &&& v) = 0))) notWritten notWritten ∧
  ByteRule .xorwf true (fun s v => s.w ^^^ v) (fun s v => some (decide ((s.w ^^^ v) = 0))) notWritten notWritten

/-- R157, R158, R159: IORLW, ANDLW and XORLW with their encodings; Z alone is written. -/
def Obligations.LogicWithLiteralWritesZOnly : Prop :=
  LiteralEncoding .iorlw 0x3F00#14 0x3800#14 ∧ LiteralEncoding .andlw 0x3F00#14 0x3900#14 ∧
  LiteralEncoding .xorlw 0x3F00#14 0x3A00#14 ∧
  LiteralRule .iorlw (fun s k => s.w ||| k) (fun s k => some (decide ((s.w ||| k) = 0))) notWritten notWritten ∧
  LiteralRule .andlw (fun s k => s.w &&& k) (fun s k => some (decide ((s.w &&& k) = 0))) notWritten notWritten ∧
  LiteralRule .xorlw (fun s k => s.w ^^^ k) (fun s k => some (decide ((s.w ^^^ k) = 0))) notWritten notWritten

/-- R170, R171: DECF and INCF modulo 0x100 with their encodings; Z alone is written. -/
def Obligations.DecrementAndIncrementWriteZOnly : Prop :=
  ByteEncoding .decf 0x0300#14 ∧ ByteEncoding .incf 0x0A00#14 ∧
  ByteRule .decf true (fun _ v => BitVec.ofNat 8 (v.toNat + 0xFF)) (fun _ v => some (decide (v.toNat = 1)))
    notWritten notWritten ∧
  ByteRule .incf true (fun _ v => BitVec.ofNat 8 (v.toNat + 1)) (fun _ v => some (decide (v.toNat = 0xFF)))
    notWritten notWritten

/-- R175, R176: RRF and RLF rotate the nine bits of C and the register; C alone is written. -/
def Obligations.RotatesGoThroughCarry : Prop :=
  ByteEncoding .rrf 0x0C00#14 ∧ ByteEncoding .rlf 0x0D00#14 ∧
  ByteRule .rrf true (fun s v => BitVec.ofNat 8 (0x80 * (s.status.getLsbD 0).toNat + v.toNat / 2)) notWritten notWritten
    (fun _ v => some (decide (v.toNat % 2 = 1))) ∧
  ByteRule .rlf true (fun s v => BitVec.ofNat 8 (2 * v.toNat + (s.status.getLsbD 0).toNat)) notWritten notWritten
    (fun _ v => some (decide (0x80 ≤ v.toNat)))

/-- R177: SWAPF exchanges the nibbles and writes no flag. -/
def Obligations.SwapExchangesNibbles : Prop :=
  ByteEncoding .swapf 0x0E00#14 ∧
  ByteRule .swapf false (fun _ v => BitVec.ofNat 8 (0x10 * (v.toNat % 0x10) + v.toNat / 0x10))
    notWritten notWritten notWritten

/-- R180, R181: BCF and BSF read the whole byte, change bit b and write the byte back; no flag of their own. -/
def Obligations.BitClearAndSetRewriteTheByte : Prop :=
  BitEncoding .bcf 0x1000#14 ∧ BitEncoding .bsf 0x1400#14 ∧
  (∀ (f : FileField) (b : BitIndex) (s : State), accessible s (effAddr s f) = true →
    ∃ v t, memRead s (effAddr s f) = .ok v ∧
      memWrite { s with pc := s.pc + 1#13 } (effAddr s f) false (v &&& ~~~(1#8 <<< b.toNat)) = .ok t ∧
      exec (.bcf f b) s = .next t) ∧
  (∀ (f : FileField) (b : BitIndex) (s : State), accessible s (effAddr s f) = true →
    ∃ v t, memRead s (effAddr s f) = .ok v ∧
      memWrite { s with pc := s.pc + 1#13 } (effAddr s f) false (v ||| (1#8 <<< b.toNat)) = .ok t ∧
      exec (.bsf f b) s = .next t)

/-- R186: CLRF stores 0x00 without reading the register and sets Z. -/
def Obligations.ClrfStoresZeroAndSetsZ : Prop :=
  (∀ w : InstrWord, w &&& 0x3F80#14 = 0x0180#14 → decode w = .ok (.clrf (w.extractLsb' 0 7))) ∧
  ∀ (f : FileField) (s : State), accessible s (effAddr s f) = true →
    ∃ u t, memWrite { s with pc := s.pc + 1#13 } (effAddr s f) true 0x00#8 = .ok u ∧
      exec (.clrf f) s = .next t ∧ FlagsSet u t (some true) none none

/-- R185: CLRW clears W and sets Z in every state; that its don't-care bits cause no file access is decision D17. -/
def Obligations.ClrwClearsWAndSetsZ : Prop :=
  (∀ w : InstrWord, w &&& 0x3F80#14 = 0x0100#14 → decode w = .ok .clrw) ∧
  ∀ s : State, ∃ t, exec .clrw s = .next t ∧
    FlagsSet { s with pc := s.pc + 1#13, w := 0x00#8 } t (some true) none none

/-- R187, R191: COMF and MOVF with their encodings; Z alone is written. -/
def Obligations.ComplementAndMoveWriteZOnly : Prop :=
  ByteEncoding .comf 0x0900#14 ∧ ByteEncoding .movf 0x0800#14 ∧
  ByteRule .comf true (fun _ v => BitVec.ofNat 8 (0xFF - v.toNat)) (fun _ v => some (decide (v = 0xFF#8)))
    notWritten notWritten ∧
  ByteRule .movf true (fun _ v => v) (fun _ v => some (decide (v = 0x00#8))) notWritten notWritten

/-- R190: MOVWF stores W without reading the register, and writes no flag of its own. -/
def Obligations.MovwfStoresW : Prop :=
  (∀ w : InstrWord, w &&& 0x3F80#14 = 0x0080#14 → decode w = .ok (.movwf (w.extractLsb' 0 7))) ∧
  ∀ (f : FileField) (s : State), accessible s (effAddr s f) = true →
    ∃ t, memWrite { s with pc := s.pc + 1#13 } (effAddr s f) false s.w = .ok t ∧ exec (.movwf f) s = .next t

/-- R192: MOVLW loads the literal and writes no flag; bits 9..8 are ignored. -/
def Obligations.MovlwLoadsTheLiteral : Prop :=
  LiteralEncoding .movlw 0x3C00#14 0x3000#14 ∧
  ∀ (k : Byte) (s : State), exec (.movlw k) s = .next { s with pc := s.pc + 1#13, w := k }

/-- R193, R201, R202: RETLW, RETURN and RETFIE go to the top of the stack and remove it; RETLW loads W and RETFIE sets
GIE; on an empty stack each is refused (R99, decision D7). -/
def Obligations.ReturnsPopTheStack : Prop :=
  WordEncoding .ret 0x0008#14 ∧ WordEncoding .retfie 0x0009#14 ∧ LiteralEncoding .retlw 0x3C00#14 0x3400#14 ∧
  (∀ (s : State) (a : ProgAddr) (rest : List ProgAddr) (k : Byte), s.stack = a :: rest →
    exec .ret s = .next { s with pc := a, stack := rest } ∧
    exec .retfie s = .next { s with pc := a, stack := rest, intcon := s.intcon ||| 0x80#8 } ∧
    exec (.retlw k) s = .next { s with pc := a, stack := rest, w := k }) ∧
  (∀ (s : State) (k : Byte), s.stack = [] →
    exec .ret s = .refused .stackUnderflow ∧ exec .retfie s = .refused .stackUnderflow ∧
    exec (.retlw k) s = .refused .stackUnderflow)

/-- R195, R196, decision D18 (log 18): OPTION and TRIS store W whatever the bank bits hold, and TRIS 7 is refused. -/
def Obligations.OptionAndTrisStoreW : Prop :=
  WordEncoding .option 0x0062#14 ∧ WordEncoding (.tris 5#3) 0x0065#14 ∧ WordEncoding (.tris 6#3) 0x0066#14 ∧
  WordEncoding (.tris 7#3) 0x0067#14 ∧
  ∀ s : State,
    exec .option s = .next { s with pc := s.pc + 1#13, optionReg := s.w } ∧
    exec (.tris 5#3) s = .next { s with pc := s.pc + 1#13, trisA := s.w } ∧
    exec (.tris 6#3) s = .next { s with pc := s.pc + 1#13, trisB := s.w } ∧
    exec (.tris 7#3) s = .refused .unlistedFileAddress

/-- R200: each of the four NOP words changes nothing but pc. -/
def Obligations.NopOnlyAdvances : Prop :=
  (∀ w : InstrWord, w &&& 0x3F9F#14 = 0x0000#14 → decode w = .ok .nop) ∧
  ∀ s : State, exec .nop s = .next { s with pc := s.pc + 1#13 }

/-- R203, R204: SLEEP and CLRWDT restart the watchdog and its prescaler and set /TO; SLEEP clears /PD and puts the core
to sleep, CLRWDT sets /PD. -/
def Obligations.SleepAndClrwdtWriteToAndPd : Prop :=
  WordEncoding .sleep 0x0063#14 ∧ WordEncoding .clrwdt 0x0064#14 ∧
  ∀ s : State,
    exec .sleep s =
      .next { s with pc := s.pc + 1#13, wdt := 0, wdtPre := 0, sleeping := true,
                     status := (s.status &&& 0xF7#8) ||| 0x10#8 } ∧
    exec .clrwdt s = .next { s with pc := s.pc + 1#13, wdt := 0, wdtPre := 0, status := s.status ||| 0x18#8 }

/-- R205, R206, R207: GOTO and CALL form the target from PCLATH[4:3] (decision D10), CALL pushes the address of the next
word modulo 0x2000, and a CALL on a full stack is refused (decision D7). -/
def Obligations.CallAndGotoReachTheTarget : Prop :=
  (∀ w : InstrWord, w &&& 0x3800#14 = 0x2000#14 → decode w = .ok (.call (w.extractLsb' 0 11))) ∧
  (∀ w : InstrWord, w &&& 0x3800#14 = 0x2800#14 → decode w = .ok (.goto (w.extractLsb' 0 11))) ∧
  ∀ (s : State) (k : BitVec 11),
    exec (.goto k) s = .next { s with pc := BitVec.ofNat 13 (s.pclath.toNat / 8 * 0x800 + k.toNat) } ∧
    (s.stack.length ≠ s.cfg.stackDepth →
      exec (.call k) s =
        .next { s with pc := BitVec.ofNat 13 (s.pclath.toNat / 8 * 0x800 + k.toNat),
                       stack := BitVec.ofNat 13 (s.pc.toNat + 1) :: s.stack }) ∧
    (s.stack.length = s.cfg.stackDepth → exec (.call k) s = .refused .stackOverflow)

/-- R215, R216, R217: DECFSZ and INCFSZ store the result, write no flag, and pass over the next word when the result is
0x00; with PCL as destination they are refused (decision D12). -/
def Obligations.CountAndSkipIfZero : Prop :=
  ByteEncoding .decfsz 0x0B00#14 ∧ ByteEncoding .incfsz 0x0F00#14 ∧
  ∀ (f : FileField) (d : Dest) (s : State), accessible s (effAddr s f) = true →
    ((d = .f ∧ (effAddr s f).toNat % 0x80 = 0x02) →
      exec (.decfsz f d) s = .refused .skipWithPclDestination ∧
      exec (.incfsz f d) s = .refused .skipWithPclDestination) ∧
    (¬(d = .f ∧ (effAddr s f).toNat % 0x80 = 0x02) →
      ∃ v u x, memRead s (effAddr s f) = .ok v ∧
        (d = .w → u = { s with w := BitVec.ofNat 8 (v.toNat + 0xFF) } ∧ x = { s with w := BitVec.ofNat 8 (v.toNat + 1) }) ∧
        (d = .f → memWrite s (effAddr s f) false (BitVec.ofNat 8 (v.toNat + 0xFF)) = .ok u ∧
          memWrite s (effAddr s f) false (BitVec.ofNat 8 (v.toNat + 1)) = .ok x) ∧
        exec (.decfsz f d) s = .next { u with pc := s.pc + if v.toNat = 1 then 2#13 else 1#13 } ∧
        exec (.incfsz f d) s = .next { x with pc := s.pc + if v.toNat = 0xFF then 2#13 else 1#13 })

/-- R218, R219: BTFSC passes over the next word when bit b is 0, BTFSS when it is 1, and nothing else changes. -/
def Obligations.BitTestsSkip : Prop :=
  BitEncoding .btfsc 0x1800#14 ∧ BitEncoding .btfss 0x1C00#14 ∧
  ∀ (f : FileField) (b : BitIndex) (s : State), accessible s (effAddr s f) = true →
    ∃ v, memRead s (effAddr s f) = .ok v ∧
      exec (.btfsc f b) s = .next { s with pc := s.pc + if v.getLsbD b.toNat then 1#13 else 2#13 } ∧
      exec (.btfss f b) s = .next { s with pc := s.pc + if v.getLsbD b.toNat then 2#13 else 1#13 }

/-! ### Interrupt, sleep, watchdog, reset, environment (files 60 and 70) -/

/-- R234, R235: the entry clears GIE, pushes the address of the next instruction, goes to 0x0004 and changes nothing
else. That a full stack is refused is decision D7 (R99; log 11, DEDUCED: the chip wraps instead). -/
def Obligations.InterruptEntrySavesPcAndMasks : Prop :=
  ∀ s : State,
    (s.stack.length ≠ s.cfg.stackDepth →
      takeInterrupt s =
        .ok { s with intcon := s.intcon &&& 0x7F#8, stack := s.pc :: s.stack, pc := 0x0004#13 }) ∧
    (s.stack.length = s.cfg.stackDepth → takeInterrupt s = .error .stackOverflow)

/-- R233, R234, R236, R237 (decision D19): an awake core that no reset reaches enters the interrupt instead of fetching
when GIE and an enabled flag are 1, unless the environment puts the entry off within INT_DEFER_MAX (log 14). On a full
stack the step is refused, which is decision D7 (log 11). -/
def Obligations.DueInterruptReplacesTheFetch : Prop :=
  ∀ s : State, Awake s.boundary (openBoundary s) →
    (openBoundary s).intcon.getLsbD 7 = true → SourcePending (openBoundary s) →
    (s.boundary.deferInt = false ∨ s.cfg.intDeferMax ≤ s.deferred) →
    (s.stack.length ≠ s.cfg.stackDepth →
      step s = .next { openBoundary s with
        intcon := (openBoundary s).intcon &&& 0x7F#8, stack := s.pc :: s.stack, pc := 0x0004#13, deferred := 0 }) ∧
    (s.stack.length = s.cfg.stackDepth → step s = .refused .stackOverflow)

/-- R202, R234, R238: RETFIE after an interrupt entry returns to the interrupted address with the stack as it was and
GIE set, whatever the handler has done to the rest of the state. -/
def Obligations.RetfieUndoesTheInterruptEntry : Prop :=
  ∀ s t h : State, takeInterrupt s = .ok t → h.stack = t.stack →
    exec .retfie h = .next { h with pc := s.pc, stack := s.stack, intcon := h.intcon ||| 0x80#8 }

/-- R201, R206: RETURN after CALL comes back to the word after the CALL with the stack as it was. -/
def Obligations.ReturnUndoesTheCall : Prop :=
  ∀ (s t h : State) (k : BitVec 11), exec (.call k) s = .next t → h.stack = t.stack →
    exec .ret h = .next { h with pc := s.pc + 1#13, stack := s.stack }

/-- R247 (decision D24; log 27, PRESUMED): a sleeping core that nothing wakes keeps everything but what the environment changes; an
enabled flag other than T0IF wakes it, and the same step runs the next instruction whether or not GIE is 1. -/
def Obligations.SleepLastsUntilAnEnabledFlag : Prop :=
  ∀ s : State, s.sleeping = true → s.boundary.line ≠ .mclr →
    ¬(s.boundary.line = .wdtTimeout ∧ s.cfg.wdtEnabled = true) →
    (¬(((openBoundary s).intcon.getLsbD 4 = true ∧ (openBoundary s).intcon.getLsbD 1 = true) ∨
        ((openBoundary s).intcon.getLsbD 3 = true ∧ (openBoundary s).intcon.getLsbD 0 = true) ∨
        ((openBoundary s).intcon.getLsbD 6 = true ∧ (openBoundary s).eecon1.getLsbD 4 = true)) →
      step s = .next (openBoundary s)) ∧
    (((openBoundary s).intcon.getLsbD 4 = true ∧ (openBoundary s).intcon.getLsbD 1 = true) ∨
        ((openBoundary s).intcon.getLsbD 3 = true ∧ (openBoundary s).intcon.getLsbD 0 = true) ∨
        ((openBoundary s).intcon.getLsbD 6 = true ∧ (openBoundary s).eecon1.getLsbD 4 = true) →
      ∀ (w : InstrWord) (i : Instr), s.prog.read s.pc.toNat = some w → decode w = .ok i →
        step s = exec i { openBoundary s with sleeping := false })

/-- R246, R271 (decisions D23 and D29): with the watchdog enabled a time-out restarts an awake core, every register of
the reset line at its value but for /TO = 0, and wakes a sleeping one with /TO = 0 and the rest of STATUS kept; with the
watchdog disabled it has no effect. The whole pc is decision D9 (log 23), Z, DC and C are D28 (log 25), the empty stack is
D7 (log 11). That a time-out in sleep is a wake-up without a reset, whose step runs the next instruction, is general
knowledge, as R246 and R247 mark it (G23, decision D24; log 27, PRESUMED). The model's choices are that the program, the data memory, W, FSR and the latches survive the restart (log
10) and that a time-out together with a waking flag clears /TO too (log 15). -/
def Obligations.WatchdogTimeoutRestartsOrWakes : Prop :=
  ∀ s : State, s.boundary.line = .wdtTimeout →
    (s.cfg.wdtEnabled = true → s.sleeping = false →
      ∃ t, step s = .next t ∧ t.pc = 0x0000#13 ∧ t.pclath = 0b00000#5 ∧ t.status = 0x0F#8 ∧ t.intcon = 0x00#8 ∧
        t.optionReg = 0xFF#8 ∧ t.trisA = 0xFF#8 ∧ t.trisB = 0xFF#8 ∧ t.eedata = 0x00#8 ∧ t.eeadr = 0 ∧ t.eecon1 = 0 ∧
        t.sleeping = false ∧ t.stack = [] ∧ t.prog = s.prog ∧ t.data = s.data ∧ t.w = s.w ∧ t.fsr = s.fsr ∧
        t.latA = s.latA ∧ t.latB = s.latB) ∧
    (s.cfg.wdtEnabled = true → s.sleeping = true →
      ∀ (w : InstrWord) (i : Instr), s.prog.read s.pc.toNat = some w → decode w = .ok i →
        step s = exec i { openBoundary s with sleeping := false, status := s.status &&& 0xEF#8 }) ∧
    (s.cfg.wdtEnabled = false →
      step s = coreStep { s.boundary with line := .quiet } (openBoundary s))

/-- R271, R10 (the state it does not name is kept by choice, log 10): /MCLR puts every register of the reset line at its
value from any state, asleep or with an interrupt due. The whole pc is decision D9 (log 23), Z, DC and C are D28 (log 25),
and the empty stack, which the reset line does not name, is D7 (log 11). -/
def Obligations.MclrResetsFromEveryState : Prop :=
  ∀ s : State, s.boundary.line = .mclr →
    ∃ t, step s = .next t ∧ t.pc = 0x0000#13 ∧ t.pclath = 0b00000#5 ∧ t.status = 0x1F#8 ∧ t.intcon = 0x00#8 ∧
      t.optionReg = 0xFF#8 ∧ t.trisA = 0xFF#8 ∧ t.trisB = 0xFF#8 ∧ t.eedata = 0x00#8 ∧ t.eeadr = 0 ∧ t.eecon1 = 0 ∧
      t.sleeping = false ∧ t.stack = [] ∧ t.prog = s.prog ∧ t.data = s.data ∧ t.w = s.w ∧ t.fsr = s.fsr ∧
      t.latA = s.latA ∧ t.latB = s.latB

/-- R60, R272 (decisions D9 for the whole pc, D28 for Z, DC and C, D7 for the empty stack): the values the spec gives
the machine right after reset. -/
def Obligations.ResetStateHasTheListedValues : Prop :=
  State.reset.pc = 0x0000#13 ∧ State.reset.pclath = 0b00000#5 ∧ State.reset.status = 0x1F#8 ∧
  State.reset.intcon = 0x00#8 ∧ State.reset.optionReg = 0xFF#8 ∧ State.reset.trisA = 0xFF#8 ∧
  State.reset.trisB = 0xFF#8 ∧ State.reset.eedata = 0x00#8 ∧ State.reset.eeadr = 0 ∧ State.reset.eecon1 = 0 ∧
  State.reset.sleeping = false ∧ State.reset.stack = []

/-- R240 (decision D26): the environment only sets T0IF, INTF, RBIF and, with the device, EEIF; it clears no flag, and
apart from them changes only what it draws, the EEPROM write it completes and the model's own schedule (logs 1 to 3).
Without the device or the completion event the EEPROM, the write in progress and EECON1 stay as they are; the event
stores the latched byte at the latched address and nowhere else, clears WR and sets EEIF (G5; details log 13). -/
def Obligations.EnvironmentOnlyRaisesFlags : Prop :=
  ∀ s : State, ∃ u, openBoundary s = u ∧
    u = { s with
      intcon := u.intcon, eecon1 := u.eecon1, eeprom := u.eeprom, eePending := u.eePending, tmr0 := u.tmr0,
      pinsA := u.pinsA, pinsB := u.pinsB, tmr0Pre := u.tmr0Pre, wdt := u.wdt, wdtPre := u.wdtPre,
      env := s.env.tail, tick := s.tick + 1 } ∧
    u.intcon.extractLsb' 3 5 = s.intcon.extractLsb' 3 5 ∧
    (u.intcon.getLsbD 2 = (s.intcon.getLsbD 2 || s.boundary.t0Overflow)) ∧
    (u.intcon.getLsbD 1 = (s.intcon.getLsbD 1 || s.boundary.intTrigger)) ∧
    (u.intcon.getLsbD 0 = (s.intcon.getLsbD 0 || s.boundary.rbChange)) ∧
    (u.eecon1.getLsbD 4 = (s.eecon1.getLsbD 4 || (s.boundary.eeComplete && s.cfg.eepromDevice))) ∧
    (s.boundary.eeComplete = false ∨ s.cfg.eepromDevice = false →
      u.eecon1 = s.eecon1 ∧ u.eeprom = s.eeprom ∧ u.eePending = s.eePending) ∧
    (s.boundary.eeComplete = true → s.cfg.eepromDevice = true →
      u.eePending = none ∧ u.eecon1.getLsbD 4 = true ∧ u.eecon1.getLsbD 3 = s.eecon1.getLsbD 3 ∧
      u.eecon1.getLsbD 2 = s.eecon1.getLsbD 2 ∧ u.eecon1.getLsbD 1 = false ∧
      u.eecon1.getLsbD 0 = s.eecon1.getLsbD 0 ∧ (s.eePending = none → u.eeprom = s.eeprom) ∧
      ∀ (a : BitVec 6) (v : Byte), s.eePending = some (a, v) →
        (∀ r : Nat, r ≠ a.toNat → u.eeprom.read r = s.eeprom.read r) ∧
        (s.eeprom.wf 0x40 = true → u.eeprom.read a.toNat = v))

/-- R37, R38, R93 and decision D21 (log 2): one instruction sees one draw of the port; a bit instruction on PORTB reads
the pins drawn at its boundary and writes the whole byte to the latch. -/
def Obligations.PortReadModifyWriteUsesTheDrawnPins : Prop :=
  ∀ (s : State) (f : FileField) (b : BitIndex), (effAddr s f).toNat = 0x006 →
    (openBoundary s).pinsB = Config.draw .portB s.tick ∧
    exec (.bsf f b) s = .next { s with pc := s.pc + 1#13, latB := s.pinsB ||| (1#8 <<< b.toNat) } ∧
    exec (.bcf f b) s = .next { s with pc := s.pc + 1#13, latB := s.pinsB &&& ~~~(1#8 <<< b.toNat) }

/-- R34, R232: the flags T0IF, INTF and RBIF are never cleared by hardware except at reset, which the spec marks as
general knowledge (G14): a step that clears one was a reset or ran an instruction that stores to INTCON. -/
def Obligations.InterruptFlagsAreClearedOnlyBySoftwareOrReset : Prop :=
  ∀ (s t : State) (k : Nat), step s = .next t → k ≤ 2 → s.intcon.getLsbD k = true → t.intcon.getLsbD k = false →
    (∃ cause, stepKind s.boundary (openBoundary s) = .reset cause) ∨
    (∃ i, StepRan s i ∧ StoresReg i s .intcon)

/-! ### Invariants and frames of the whole machine -/

/-- The invariant holds right after reset. -/
def Obligations.InvariantHoldsAtReset : Prop := State.reset.Inv

/-- Every step keeps the invariant, from every state that has it: the memories stay canonical and inside the file map,
the stack and the deferral stay within their parameters, a sleeping core has /TO = 1 and /PD = 0, and the EEPROM control
state stays consistent (R42, R41, R203, R237, R40; the canonical form and the EEPROM clauses are the model's own, logs
5, 13, 14). -/
def Obligations.EveryStepKeepsTheInvariant : Prop :=
  ∀ s t : State, s.Inv → step s = .next t → t.Inv

/-- R43, R100, R4: program memory and the parameters (the model's own field, log 7) do not change during a run, however
long. -/
def Obligations.ProgramIsConstantOverEveryRun : Prop :=
  ∀ (n : Nat) (s t : State), Host.Core.run Sys2Proof.core n s = .next t → t.prog = s.prog ∧ t.cfg = s.cfg

/-- R43, R215, R100: no instruction reads or writes program memory, so what it does is the same whatever the program
holds. That a skipped word is never looked at is decision D12, as R215 marks it (log 22, PRESUMED). -/
def Obligations.NoInstructionLooksAtProgramMemory : Prop :=
  ∀ (i : Instr) (s : State) (p : Program),
    exec i { s with prog := p } = mapNext (fun t => { t with prog := p }) (exec i s)

/-- R26 (decision D13): no instruction but SLEEP and CLRWDT changes /TO or /PD, whatever it writes to STATUS. -/
def Obligations.OnlySleepAndClrwdtChangeToAndPd : Prop :=
  ∀ (i : Instr) (s t : State), exec i s = .next t → i ≠ .sleep → i ≠ .clrwdt → t.toN = s.toN ∧ t.pdN = s.pdN

/-- R27, R28, R29: an instruction whose rule does not write Z, DC or C leaves it as it was, unless it stores to STATUS
without writing any flag of its own (R30, decision D13). -/
def Obligations.FlagsChangeOnlyByTheirWriters : Prop :=
  ∀ (i : Instr) (s t : State), exec i s = .next t →
    (StoresReg i s .status → writesZ i = true ∨ writesDC i = true ∨ writesC i = true) →
    (writesZ i = false → t.flagZ = s.flagZ) ∧ (writesDC i = false → t.flagDC = s.flagDC) ∧
    (writesC i = false → t.flagC = s.flagC)

/-- R42: only CALL, RETURN, RETFIE, RETLW and the interrupt entry change the return stack; reset empties it. -/
def Obligations.StackChangesOnlyByCallReturnAndInterrupt : Prop :=
  (∀ (i : Instr) (s t : State), exec i s = .next t → isReturn i = false → (∀ k, i ≠ .call k) → t.stack = s.stack) ∧
  (∀ s t : State, step s = .next t → t.stack ≠ s.stack →
    stepKind s.boundary (openBoundary s) = .interrupt ∨
    (∃ cause, stepKind s.boundary (openBoundary s) = .reset cause) ∨
    ∃ i, StepRan s i ∧ (isReturn i = true ∨ ∃ k, i = .call k))

/-- R23, R31, R33 to R40, R46, R196, R202: each special register, the sleep bit and the hidden state change only by an
instruction that stores to the register or is named for it; the EEPROM array and the model's own fields (logs 1, 2, 7,
14) by none. That OPTION and TRIS write the registers they name is decision D18 (log 18); that only EECON1 and EECON2
change the unlock, and a store to EECON1 the write in progress and EEDATA, is the model's (log 13, PRESUMED from G5). -/
def Obligations.SpecialRegistersChangeOnlyByTheirWriters : Prop :=
  ∀ (i : Instr) (s t : State), exec i s = .next t →
    (¬StoresReg i s .fsr → t.fsr = s.fsr) ∧ (¬StoresReg i s .pclath → t.pclath = s.pclath) ∧
    (¬StoresReg i s .intcon → i ≠ .retfie → t.intcon = s.intcon) ∧
    (¬StoresReg i s .option → i ≠ .option → t.optionReg = s.optionReg) ∧
    (¬StoresReg i s .trisA → i ≠ .tris 5#3 → t.trisA = s.trisA) ∧
    (¬StoresReg i s .trisB → i ≠ .tris 6#3 → t.trisB = s.trisB) ∧
    (¬StoresReg i s .portA → t.latA = s.latA) ∧ (¬StoresReg i s .portB → t.latB = s.latB) ∧
    (¬StoresReg i s .tmr0 → t.tmr0 = s.tmr0) ∧ (¬StoresReg i s .eeadr → t.eeadr = s.eeadr) ∧
    (¬StoresReg i s .eedata → ¬StoresReg i s .eecon1 → t.eedata = s.eedata) ∧
    (¬StoresReg i s .eecon1 → t.eecon1 = s.eecon1 ∧ t.eePending = s.eePending) ∧
    (¬StoresReg i s .eecon1 → ¬StoresReg i s .eecon2 → t.eeUnlock = s.eeUnlock) ∧
    (¬StoresReg i s .status → t.status.extractLsb' 5 3 = s.status.extractLsb' 5 3) ∧
    (i ≠ .sleep → t.sleeping = s.sleeping) ∧
    (i ≠ .sleep → i ≠ .clrwdt → t.wdt = s.wdt ∧ t.wdtPre = s.wdtPre) ∧
    t.eeprom = s.eeprom ∧ t.prog = s.prog ∧ t.cfg = s.cfg ∧ t.pinsA = s.pinsA ∧ t.pinsB = s.pinsB ∧
    t.tmr0Pre = s.tmr0Pre ∧ t.env = s.env ∧ t.tick = s.tick ∧ t.deferred = s.deferred

/-- R88: an instruction leaves every byte of data memory unchanged except the one at the in-bank part of the effective
address it stores to. -/
def Obligations.DataMemoryChangesOnlyAtTheStoredAddress : Prop :=
  ∀ (i : Instr) (s t : State), exec i s = .next t →
    (storesTo i s = none → ∀ r : Nat, t.data.read r = s.data.read r) ∧
    (∀ a, storesTo i s = some a → ∀ r : Nat, r ≠ (inBank a).toNat → t.data.read r = s.data.read r)

/-- R20: W is written by no instruction but those that name it as destination, and an instruction that neither reads nor
writes it does the same whatever W holds. -/
def Obligations.WIsUsedOnlyByItsReadersAndWriters : Prop :=
  (∀ (i : Instr) (s t : State), exec i s = .next t → writesW i = false → t.w = s.w) ∧
  (∀ (i : Instr) (s : State) (x : Byte), writesW i = false → readsW i = false →
    exec i { s with w := x } = mapNext (fun t => { t with w := x }) (exec i s))

/-- R208, R21: after an instruction pc is the next address, or the one after it for a skip, or the target of a CALL or
GOTO (in the page of PCLATH[4:3]: R205, decision D10, log 23), or the popped address of a return, or, after a store to
PCL, an address whose five high bits are PCLATH (decision D12, log 22, which also refuses a skip there). -/
def Obligations.PcChangesOnlyInTheListedWays : Prop :=
  ∀ (i : Instr) (s t : State), exec i s = .next t →
    t.pc = s.pc + 1#13 ∨ (isSkip i = true ∧ t.pc = s.pc + 2#13) ∨
    (isJump i = true ∧ t.pc.toNat / 0x800 = s.pclath.toNat / 8) ∨
    (isReturn i = true ∧ s.stack = t.pc :: t.stack) ∨
    (StoresReg i s .pcl ∧ isSkip i = false ∧ t.pc.toNat / 0x100 = s.pclath.toNat)

/-- R237 (decision D19; the form of the put-off is log 14): an awake core with the interrupt due, which the environment
puts off while fewer than INT_DEFER_MAX instructions have been let through, runs the decoded instruction and counts it. -/
def Obligations.PutOffInterruptRunsTheInstruction : Prop :=
  ∀ (s : State) (w : InstrWord) (i : Instr), Awake s.boundary (openBoundary s) →
    (openBoundary s).intcon.getLsbD 7 = true → SourcePending (openBoundary s) →
    s.boundary.deferInt = true → s.deferred < s.cfg.intDeferMax →
    s.prog.read s.pc.toNat = some w → decode w = .ok i →
    step s = exec i { openBoundary s with deferred := s.deferred + 1 }
end

