-- ==== Sys2Proof/Laws/Bits.lean ====
section
/-!
SUPPORT. The bits of a register after one bit is written, and STATUS after the flag writes of an instruction.
-/

namespace Sys2Proof.Machine

/-- Writing bit `i` gives `b` there and leaves every other bit. -/
@[simp] theorem getElem_setBit {n : Nat} (v : BitVec n) (i j : Nat) (b : Bool) (hj : j < n) :
    (setBit v i b)[j] = if j = i then b else v[j] := by
  cases b <;> by_cases h : i = j
  · subst h; simp [setBit]
  · simp [setBit, BitVec.getElem_twoPow, Ne.symm h]
  · subst h; simp [setBit, BitVec.getElem_twoPow]
  · simp [setBit, BitVec.getElem_twoPow, Ne.symm h]

/-- The same, for a bit read past the end as well. -/
theorem getLsbD_setBit {n : Nat} (v : BitVec n) (i j : Nat) (b : Bool) :
    (setBit v i b).getLsbD j = if j = i ∧ j < n then b else v.getLsbD j := by
  by_cases hj : j < n
  · rw [BitVec.getLsbD_eq_getElem hj, BitVec.getLsbD_eq_getElem hj, getElem_setBit]; simp [hj]
  · rw [BitVec.getLsbD_of_ge _ _ (by omega), BitVec.getLsbD_of_ge _ _ (by omega), if_neg (by omega)]

/-- A raised flag adds its own bit. -/
@[simp] theorem getElem_flagBit {n : Nat} (i j : Nat) (b : Bool) (hj : j < n) :
    (flagBit n i b)[j] = (b && decide (i = j)) := by
  cases b <;> simp [flagBit, BitVec.getElem_twoPow, eq_comm]

/-- Z after the flag writes. -/
@[simp] theorem FlagUpdate.apply_bit2 (u : FlagUpdate) (v : Byte) : (u.apply v)[2] = u.z.getD v[2] := by
  simp [FlagUpdate.apply]

/-- DC after the flag writes. -/
@[simp] theorem FlagUpdate.apply_bit1 (u : FlagUpdate) (v : Byte) : (u.apply v)[1] = u.dc.getD v[1] := by
  simp [FlagUpdate.apply]

/-- C after the flag writes. -/
@[simp] theorem FlagUpdate.apply_bit0 (u : FlagUpdate) (v : Byte) : (u.apply v)[0] = u.c.getD v[0] := by
  simp [FlagUpdate.apply]

/-- The bits above the flags are not touched by the flag writes. -/
theorem FlagUpdate.apply_high (u : FlagUpdate) (v : Byte) {j : Nat} (hj : 3 ≤ j) (h8 : j < 8) :
    (u.apply v)[j] = v[j] := by
  have h0 : j ≠ 0 := by omega
  have h1 : j ≠ 1 := by omega
  have h2 : j ≠ 2 := by omega
  simp [FlagUpdate.apply, h0, h1, h2]

/-- The bits above the flags as one field. -/
theorem FlagUpdate.apply_field (u : FlagUpdate) (v : Byte) :
    (u.apply v).extractLsb' 3 5 = v.extractLsb' 3 5 := by
  ext j hj
  rw [BitVec.getElem_extractLsb', BitVec.getElem_extractLsb', BitVec.getLsbD_eq_getElem (by omega),
    BitVec.getLsbD_eq_getElem (by omega)]
  exact u.apply_high v (by omega) (by omega)

/-- Writing no flag leaves STATUS as it is. -/
@[simp] theorem FlagUpdate.apply_nothing (v : Byte) : FlagUpdate.nothing.apply v = v := by
  ext j hj
  by_cases h3 : 3 ≤ j
  · exact FlagUpdate.apply_high _ _ h3 hj
  · have : j = 0 ∨ j = 1 ∨ j = 2 := by omega
    rcases this with rfl | rfl | rfl <;> simp only [apply_bit0, apply_bit1, apply_bit2] <;> rfl

/-- Writing no flag changes no state. -/
@[simp] theorem State.setFlags_nothing (s : State) : s.setFlags FlagUpdate.nothing = s := by
  simp only [State.setFlags, FlagUpdate.apply_nothing]

/-- /PD after SLEEP or CLRWDT. -/
@[simp] theorem State.setToPd_pdN (s : State) (x y : Bool) : (s.setToPd x y).pdN = y := by
  simp [State.setToPd, State.pdN]

/-- /TO after SLEEP or CLRWDT. -/
@[simp] theorem State.setToPd_toN (s : State) (x y : Bool) : (s.setToPd x y).toN = x := by
  simp [State.setToPd, State.toN]

end Sys2Proof.Machine
end

