-- ==== Sys2Proof/Laws/State.lean ====
section
/-!
SUPPORT. One lemma per field per named update of State, each true by definition, so that no later proof unfolds a record
update.
-/

namespace Sys2Proof.Machine

@[simp] theorem State.advance_w (s : State) : s.advance.w = s.w := rfl
@[simp] theorem State.advance_pc (s : State) : s.advance.pc = s.pc + 1#13 := rfl
@[simp] theorem State.advance_pclath (s : State) : s.advance.pclath = s.pclath := rfl
@[simp] theorem State.advance_status (s : State) : s.advance.status = s.status := rfl
@[simp] theorem State.advance_fsr (s : State) : s.advance.fsr = s.fsr := rfl
@[simp] theorem State.advance_intcon (s : State) : s.advance.intcon = s.intcon := rfl
@[simp] theorem State.advance_optionReg (s : State) : s.advance.optionReg = s.optionReg := rfl
@[simp] theorem State.advance_tmr0 (s : State) : s.advance.tmr0 = s.tmr0 := rfl
@[simp] theorem State.advance_tmr0Pre (s : State) : s.advance.tmr0Pre = s.tmr0Pre := rfl
@[simp] theorem State.advance_latA (s : State) : s.advance.latA = s.latA := rfl
@[simp] theorem State.advance_latB (s : State) : s.advance.latB = s.latB := rfl
@[simp] theorem State.advance_trisA (s : State) : s.advance.trisA = s.trisA := rfl
@[simp] theorem State.advance_trisB (s : State) : s.advance.trisB = s.trisB := rfl
@[simp] theorem State.advance_pinsA (s : State) : s.advance.pinsA = s.pinsA := rfl
@[simp] theorem State.advance_pinsB (s : State) : s.advance.pinsB = s.pinsB := rfl
@[simp] theorem State.advance_eedata (s : State) : s.advance.eedata = s.eedata := rfl
@[simp] theorem State.advance_eeadr (s : State) : s.advance.eeadr = s.eeadr := rfl
@[simp] theorem State.advance_eecon1 (s : State) : s.advance.eecon1 = s.eecon1 := rfl
@[simp] theorem State.advance_eeUnlock (s : State) : s.advance.eeUnlock = s.eeUnlock := rfl
@[simp] theorem State.advance_eePending (s : State) : s.advance.eePending = s.eePending := rfl
@[simp] theorem State.advance_data (s : State) : s.advance.data = s.data := rfl
@[simp] theorem State.advance_eeprom (s : State) : s.advance.eeprom = s.eeprom := rfl
@[simp] theorem State.advance_prog (s : State) : s.advance.prog = s.prog := rfl
@[simp] theorem State.advance_stack (s : State) : s.advance.stack = s.stack := rfl
@[simp] theorem State.advance_sleeping (s : State) : s.advance.sleeping = s.sleeping := rfl
@[simp] theorem State.advance_wdt (s : State) : s.advance.wdt = s.wdt := rfl
@[simp] theorem State.advance_wdtPre (s : State) : s.advance.wdtPre = s.wdtPre := rfl
@[simp] theorem State.advance_deferred (s : State) : s.advance.deferred = s.deferred := rfl
@[simp] theorem State.advance_env (s : State) : s.advance.env = s.env := rfl
@[simp] theorem State.advance_tick (s : State) : s.advance.tick = s.tick := rfl
@[simp] theorem State.advance_cfg (s : State) : s.advance.cfg = s.cfg := rfl

@[simp] theorem State.setFlags_w (s : State) (u : FlagUpdate) : (s.setFlags u).w = s.w := rfl
@[simp] theorem State.setFlags_pc (s : State) (u : FlagUpdate) : (s.setFlags u).pc = s.pc := rfl
@[simp] theorem State.setFlags_pclath (s : State) (u : FlagUpdate) : (s.setFlags u).pclath = s.pclath := rfl
@[simp] theorem State.setFlags_status (s : State) (u : FlagUpdate) : (s.setFlags u).status = u.apply s.status := rfl
@[simp] theorem State.setFlags_fsr (s : State) (u : FlagUpdate) : (s.setFlags u).fsr = s.fsr := rfl
@[simp] theorem State.setFlags_intcon (s : State) (u : FlagUpdate) : (s.setFlags u).intcon = s.intcon := rfl
@[simp] theorem State.setFlags_optionReg (s : State) (u : FlagUpdate) : (s.setFlags u).optionReg = s.optionReg := rfl
@[simp] theorem State.setFlags_tmr0 (s : State) (u : FlagUpdate) : (s.setFlags u).tmr0 = s.tmr0 := rfl
@[simp] theorem State.setFlags_tmr0Pre (s : State) (u : FlagUpdate) : (s.setFlags u).tmr0Pre = s.tmr0Pre := rfl
@[simp] theorem State.setFlags_latA (s : State) (u : FlagUpdate) : (s.setFlags u).latA = s.latA := rfl
@[simp] theorem State.setFlags_latB (s : State) (u : FlagUpdate) : (s.setFlags u).latB = s.latB := rfl
@[simp] theorem State.setFlags_trisA (s : State) (u : FlagUpdate) : (s.setFlags u).trisA = s.trisA := rfl
@[simp] theorem State.setFlags_trisB (s : State) (u : FlagUpdate) : (s.setFlags u).trisB = s.trisB := rfl
@[simp] theorem State.setFlags_pinsA (s : State) (u : FlagUpdate) : (s.setFlags u).pinsA = s.pinsA := rfl
@[simp] theorem State.setFlags_pinsB (s : State) (u : FlagUpdate) : (s.setFlags u).pinsB = s.pinsB := rfl
@[simp] theorem State.setFlags_eedata (s : State) (u : FlagUpdate) : (s.setFlags u).eedata = s.eedata := rfl
@[simp] theorem State.setFlags_eeadr (s : State) (u : FlagUpdate) : (s.setFlags u).eeadr = s.eeadr := rfl
@[simp] theorem State.setFlags_eecon1 (s : State) (u : FlagUpdate) : (s.setFlags u).eecon1 = s.eecon1 := rfl
@[simp] theorem State.setFlags_eeUnlock (s : State) (u : FlagUpdate) : (s.setFlags u).eeUnlock = s.eeUnlock := rfl
@[simp] theorem State.setFlags_eePending (s : State) (u : FlagUpdate) : (s.setFlags u).eePending = s.eePending := rfl
@[simp] theorem State.setFlags_data (s : State) (u : FlagUpdate) : (s.setFlags u).data = s.data := rfl
@[simp] theorem State.setFlags_eeprom (s : State) (u : FlagUpdate) : (s.setFlags u).eeprom = s.eeprom := rfl
@[simp] theorem State.setFlags_prog (s : State) (u : FlagUpdate) : (s.setFlags u).prog = s.prog := rfl
@[simp] theorem State.setFlags_stack (s : State) (u : FlagUpdate) : (s.setFlags u).stack = s.stack := rfl
@[simp] theorem State.setFlags_sleeping (s : State) (u : FlagUpdate) : (s.setFlags u).sleeping = s.sleeping := rfl
@[simp] theorem State.setFlags_wdt (s : State) (u : FlagUpdate) : (s.setFlags u).wdt = s.wdt := rfl
@[simp] theorem State.setFlags_wdtPre (s : State) (u : FlagUpdate) : (s.setFlags u).wdtPre = s.wdtPre := rfl
@[simp] theorem State.setFlags_deferred (s : State) (u : FlagUpdate) : (s.setFlags u).deferred = s.deferred := rfl
@[simp] theorem State.setFlags_env (s : State) (u : FlagUpdate) : (s.setFlags u).env = s.env := rfl
@[simp] theorem State.setFlags_tick (s : State) (u : FlagUpdate) : (s.setFlags u).tick = s.tick := rfl
@[simp] theorem State.setFlags_cfg (s : State) (u : FlagUpdate) : (s.setFlags u).cfg = s.cfg := rfl

@[simp] theorem State.setToPd_w (s : State) (x y : Bool) : (s.setToPd x y).w = s.w := rfl
@[simp] theorem State.setToPd_pc (s : State) (x y : Bool) : (s.setToPd x y).pc = s.pc := rfl
@[simp] theorem State.setToPd_pclath (s : State) (x y : Bool) : (s.setToPd x y).pclath = s.pclath := rfl
@[simp] theorem State.setToPd_status (s : State) (x y : Bool) :
    (s.setToPd x y).status = setBit (setBit s.status 4 x) 3 y := rfl
@[simp] theorem State.setToPd_fsr (s : State) (x y : Bool) : (s.setToPd x y).fsr = s.fsr := rfl
@[simp] theorem State.setToPd_intcon (s : State) (x y : Bool) : (s.setToPd x y).intcon = s.intcon := rfl
@[simp] theorem State.setToPd_optionReg (s : State) (x y : Bool) : (s.setToPd x y).optionReg = s.optionReg := rfl
@[simp] theorem State.setToPd_tmr0 (s : State) (x y : Bool) : (s.setToPd x y).tmr0 = s.tmr0 := rfl
@[simp] theorem State.setToPd_tmr0Pre (s : State) (x y : Bool) : (s.setToPd x y).tmr0Pre = s.tmr0Pre := rfl
@[simp] theorem State.setToPd_latA (s : State) (x y : Bool) : (s.setToPd x y).latA = s.latA := rfl
@[simp] theorem State.setToPd_latB (s : State) (x y : Bool) : (s.setToPd x y).latB = s.latB := rfl
@[simp] theorem State.setToPd_trisA (s : State) (x y : Bool) : (s.setToPd x y).trisA = s.trisA := rfl
@[simp] theorem State.setToPd_trisB (s : State) (x y : Bool) : (s.setToPd x y).trisB = s.trisB := rfl
@[simp] theorem State.setToPd_pinsA (s : State) (x y : Bool) : (s.setToPd x y).pinsA = s.pinsA := rfl
@[simp] theorem State.setToPd_pinsB (s : State) (x y : Bool) : (s.setToPd x y).pinsB = s.pinsB := rfl
@[simp] theorem State.setToPd_eedata (s : State) (x y : Bool) : (s.setToPd x y).eedata = s.eedata := rfl
@[simp] theorem State.setToPd_eeadr (s : State) (x y : Bool) : (s.setToPd x y).eeadr = s.eeadr := rfl
@[simp] theorem State.setToPd_eecon1 (s : State) (x y : Bool) : (s.setToPd x y).eecon1 = s.eecon1 := rfl
@[simp] theorem State.setToPd_eeUnlock (s : State) (x y : Bool) : (s.setToPd x y).eeUnlock = s.eeUnlock := rfl
@[simp] theorem State.setToPd_eePending (s : State) (x y : Bool) : (s.setToPd x y).eePending = s.eePending := rfl
@[simp] theorem State.setToPd_data (s : State) (x y : Bool) : (s.setToPd x y).data = s.data := rfl
@[simp] theorem State.setToPd_eeprom (s : State) (x y : Bool) : (s.setToPd x y).eeprom = s.eeprom := rfl
@[simp] theorem State.setToPd_prog (s : State) (x y : Bool) : (s.setToPd x y).prog = s.prog := rfl
@[simp] theorem State.setToPd_stack (s : State) (x y : Bool) : (s.setToPd x y).stack = s.stack := rfl
@[simp] theorem State.setToPd_sleeping (s : State) (x y : Bool) : (s.setToPd x y).sleeping = s.sleeping := rfl
@[simp] theorem State.setToPd_wdt (s : State) (x y : Bool) : (s.setToPd x y).wdt = s.wdt := rfl
@[simp] theorem State.setToPd_wdtPre (s : State) (x y : Bool) : (s.setToPd x y).wdtPre = s.wdtPre := rfl
@[simp] theorem State.setToPd_deferred (s : State) (x y : Bool) : (s.setToPd x y).deferred = s.deferred := rfl
@[simp] theorem State.setToPd_env (s : State) (x y : Bool) : (s.setToPd x y).env = s.env := rfl
@[simp] theorem State.setToPd_tick (s : State) (x y : Bool) : (s.setToPd x y).tick = s.tick := rfl
@[simp] theorem State.setToPd_cfg (s : State) (x y : Bool) : (s.setToPd x y).cfg = s.cfg := rfl

@[simp] theorem State.endDeferral_w (s : State) : s.endDeferral.w = s.w := rfl
@[simp] theorem State.endDeferral_pc (s : State) : s.endDeferral.pc = s.pc := rfl
@[simp] theorem State.endDeferral_pclath (s : State) : s.endDeferral.pclath = s.pclath := rfl
@[simp] theorem State.endDeferral_status (s : State) : s.endDeferral.status = s.status := rfl
@[simp] theorem State.endDeferral_fsr (s : State) : s.endDeferral.fsr = s.fsr := rfl
@[simp] theorem State.endDeferral_intcon (s : State) : s.endDeferral.intcon = s.intcon := rfl
@[simp] theorem State.endDeferral_optionReg (s : State) : s.endDeferral.optionReg = s.optionReg := rfl
@[simp] theorem State.endDeferral_tmr0 (s : State) : s.endDeferral.tmr0 = s.tmr0 := rfl
@[simp] theorem State.endDeferral_tmr0Pre (s : State) : s.endDeferral.tmr0Pre = s.tmr0Pre := rfl
@[simp] theorem State.endDeferral_latA (s : State) : s.endDeferral.latA = s.latA := rfl
@[simp] theorem State.endDeferral_latB (s : State) : s.endDeferral.latB = s.latB := rfl
@[simp] theorem State.endDeferral_trisA (s : State) : s.endDeferral.trisA = s.trisA := rfl
@[simp] theorem State.endDeferral_trisB (s : State) : s.endDeferral.trisB = s.trisB := rfl
@[simp] theorem State.endDeferral_pinsA (s : State) : s.endDeferral.pinsA = s.pinsA := rfl
@[simp] theorem State.endDeferral_pinsB (s : State) : s.endDeferral.pinsB = s.pinsB := rfl
@[simp] theorem State.endDeferral_eedata (s : State) : s.endDeferral.eedata = s.eedata := rfl
@[simp] theorem State.endDeferral_eeadr (s : State) : s.endDeferral.eeadr = s.eeadr := rfl
@[simp] theorem State.endDeferral_eecon1 (s : State) : s.endDeferral.eecon1 = s.eecon1 := rfl
@[simp] theorem State.endDeferral_eeUnlock (s : State) : s.endDeferral.eeUnlock = s.eeUnlock := rfl
@[simp] theorem State.endDeferral_eePending (s : State) : s.endDeferral.eePending = s.eePending := rfl
@[simp] theorem State.endDeferral_data (s : State) : s.endDeferral.data = s.data := rfl
@[simp] theorem State.endDeferral_eeprom (s : State) : s.endDeferral.eeprom = s.eeprom := rfl
@[simp] theorem State.endDeferral_prog (s : State) : s.endDeferral.prog = s.prog := rfl
@[simp] theorem State.endDeferral_stack (s : State) : s.endDeferral.stack = s.stack := rfl
@[simp] theorem State.endDeferral_sleeping (s : State) : s.endDeferral.sleeping = s.sleeping := rfl
@[simp] theorem State.endDeferral_wdt (s : State) : s.endDeferral.wdt = s.wdt := rfl
@[simp] theorem State.endDeferral_wdtPre (s : State) : s.endDeferral.wdtPre = s.wdtPre := rfl
@[simp] theorem State.endDeferral_deferred (s : State) : s.endDeferral.deferred = 0 := rfl
@[simp] theorem State.endDeferral_env (s : State) : s.endDeferral.env = s.env := rfl
@[simp] theorem State.endDeferral_tick (s : State) : s.endDeferral.tick = s.tick := rfl
@[simp] theorem State.endDeferral_cfg (s : State) : s.endDeferral.cfg = s.cfg := rfl

@[simp] theorem State.countDeferral_w (s : State) : s.countDeferral.w = s.w := rfl
@[simp] theorem State.countDeferral_pc (s : State) : s.countDeferral.pc = s.pc := rfl
@[simp] theorem State.countDeferral_pclath (s : State) : s.countDeferral.pclath = s.pclath := rfl
@[simp] theorem State.countDeferral_status (s : State) : s.countDeferral.status = s.status := rfl
@[simp] theorem State.countDeferral_fsr (s : State) : s.countDeferral.fsr = s.fsr := rfl
@[simp] theorem State.countDeferral_intcon (s : State) : s.countDeferral.intcon = s.intcon := rfl
@[simp] theorem State.countDeferral_optionReg (s : State) : s.countDeferral.optionReg = s.optionReg := rfl
@[simp] theorem State.countDeferral_tmr0 (s : State) : s.countDeferral.tmr0 = s.tmr0 := rfl
@[simp] theorem State.countDeferral_tmr0Pre (s : State) : s.countDeferral.tmr0Pre = s.tmr0Pre := rfl
@[simp] theorem State.countDeferral_latA (s : State) : s.countDeferral.latA = s.latA := rfl
@[simp] theorem State.countDeferral_latB (s : State) : s.countDeferral.latB = s.latB := rfl
@[simp] theorem State.countDeferral_trisA (s : State) : s.countDeferral.trisA = s.trisA := rfl
@[simp] theorem State.countDeferral_trisB (s : State) : s.countDeferral.trisB = s.trisB := rfl
@[simp] theorem State.countDeferral_pinsA (s : State) : s.countDeferral.pinsA = s.pinsA := rfl
@[simp] theorem State.countDeferral_pinsB (s : State) : s.countDeferral.pinsB = s.pinsB := rfl
@[simp] theorem State.countDeferral_eedata (s : State) : s.countDeferral.eedata = s.eedata := rfl
@[simp] theorem State.countDeferral_eeadr (s : State) : s.countDeferral.eeadr = s.eeadr := rfl
@[simp] theorem State.countDeferral_eecon1 (s : State) : s.countDeferral.eecon1 = s.eecon1 := rfl
@[simp] theorem State.countDeferral_eeUnlock (s : State) : s.countDeferral.eeUnlock = s.eeUnlock := rfl
@[simp] theorem State.countDeferral_eePending (s : State) : s.countDeferral.eePending = s.eePending := rfl
@[simp] theorem State.countDeferral_data (s : State) : s.countDeferral.data = s.data := rfl
@[simp] theorem State.countDeferral_eeprom (s : State) : s.countDeferral.eeprom = s.eeprom := rfl
@[simp] theorem State.countDeferral_prog (s : State) : s.countDeferral.prog = s.prog := rfl
@[simp] theorem State.countDeferral_stack (s : State) : s.countDeferral.stack = s.stack := rfl
@[simp] theorem State.countDeferral_sleeping (s : State) : s.countDeferral.sleeping = s.sleeping := rfl
@[simp] theorem State.countDeferral_wdt (s : State) : s.countDeferral.wdt = s.wdt := rfl
@[simp] theorem State.countDeferral_wdtPre (s : State) : s.countDeferral.wdtPre = s.wdtPre := rfl
@[simp] theorem State.countDeferral_deferred (s : State) : s.countDeferral.deferred = s.deferred + 1 := rfl
@[simp] theorem State.countDeferral_env (s : State) : s.countDeferral.env = s.env := rfl
@[simp] theorem State.countDeferral_tick (s : State) : s.countDeferral.tick = s.tick := rfl
@[simp] theorem State.countDeferral_cfg (s : State) : s.countDeferral.cfg = s.cfg := rfl

@[simp] theorem wakeUp_w (x : Bool) (s : State) : (wakeUp x s).w = s.w := rfl
@[simp] theorem wakeUp_pc (x : Bool) (s : State) : (wakeUp x s).pc = s.pc := rfl
@[simp] theorem wakeUp_pclath (x : Bool) (s : State) : (wakeUp x s).pclath = s.pclath := rfl
@[simp] theorem wakeUp_status (x : Bool) (s : State) :
    (wakeUp x s).status = if x then setBit s.status 4 false else s.status := rfl
@[simp] theorem wakeUp_fsr (x : Bool) (s : State) : (wakeUp x s).fsr = s.fsr := rfl
@[simp] theorem wakeUp_intcon (x : Bool) (s : State) : (wakeUp x s).intcon = s.intcon := rfl
@[simp] theorem wakeUp_optionReg (x : Bool) (s : State) : (wakeUp x s).optionReg = s.optionReg := rfl
@[simp] theorem wakeUp_tmr0 (x : Bool) (s : State) : (wakeUp x s).tmr0 = s.tmr0 := rfl
@[simp] theorem wakeUp_tmr0Pre (x : Bool) (s : State) : (wakeUp x s).tmr0Pre = s.tmr0Pre := rfl
@[simp] theorem wakeUp_latA (x : Bool) (s : State) : (wakeUp x s).latA = s.latA := rfl
@[simp] theorem wakeUp_latB (x : Bool) (s : State) : (wakeUp x s).latB = s.latB := rfl
@[simp] theorem wakeUp_trisA (x : Bool) (s : State) : (wakeUp x s).trisA = s.trisA := rfl
@[simp] theorem wakeUp_trisB (x : Bool) (s : State) : (wakeUp x s).trisB = s.trisB := rfl
@[simp] theorem wakeUp_pinsA (x : Bool) (s : State) : (wakeUp x s).pinsA = s.pinsA := rfl
@[simp] theorem wakeUp_pinsB (x : Bool) (s : State) : (wakeUp x s).pinsB = s.pinsB := rfl
@[simp] theorem wakeUp_eedata (x : Bool) (s : State) : (wakeUp x s).eedata = s.eedata := rfl
@[simp] theorem wakeUp_eeadr (x : Bool) (s : State) : (wakeUp x s).eeadr = s.eeadr := rfl
@[simp] theorem wakeUp_eecon1 (x : Bool) (s : State) : (wakeUp x s).eecon1 = s.eecon1 := rfl
@[simp] theorem wakeUp_eeUnlock (x : Bool) (s : State) : (wakeUp x s).eeUnlock = s.eeUnlock := rfl
@[simp] theorem wakeUp_eePending (x : Bool) (s : State) : (wakeUp x s).eePending = s.eePending := rfl
@[simp] theorem wakeUp_data (x : Bool) (s : State) : (wakeUp x s).data = s.data := rfl
@[simp] theorem wakeUp_eeprom (x : Bool) (s : State) : (wakeUp x s).eeprom = s.eeprom := rfl
@[simp] theorem wakeUp_prog (x : Bool) (s : State) : (wakeUp x s).prog = s.prog := rfl
@[simp] theorem wakeUp_stack (x : Bool) (s : State) : (wakeUp x s).stack = s.stack := rfl
@[simp] theorem wakeUp_sleeping (x : Bool) (s : State) : (wakeUp x s).sleeping = false := rfl
@[simp] theorem wakeUp_wdt (x : Bool) (s : State) : (wakeUp x s).wdt = s.wdt := rfl
@[simp] theorem wakeUp_wdtPre (x : Bool) (s : State) : (wakeUp x s).wdtPre = s.wdtPre := rfl
@[simp] theorem wakeUp_deferred (x : Bool) (s : State) : (wakeUp x s).deferred = s.deferred := rfl
@[simp] theorem wakeUp_env (x : Bool) (s : State) : (wakeUp x s).env = s.env := rfl
@[simp] theorem wakeUp_tick (x : Bool) (s : State) : (wakeUp x s).tick = s.tick := rfl
@[simp] theorem wakeUp_cfg (x : Bool) (s : State) : (wakeUp x s).cfg = s.cfg := rfl

@[simp] theorem drawInputs_w (s : State) : (drawInputs s).w = s.w := rfl
@[simp] theorem drawInputs_pc (s : State) : (drawInputs s).pc = s.pc := rfl
@[simp] theorem drawInputs_pclath (s : State) : (drawInputs s).pclath = s.pclath := rfl
@[simp] theorem drawInputs_status (s : State) : (drawInputs s).status = s.status := rfl
@[simp] theorem drawInputs_fsr (s : State) : (drawInputs s).fsr = s.fsr := rfl
@[simp] theorem drawInputs_intcon (s : State) : (drawInputs s).intcon = s.intcon := rfl
@[simp] theorem drawInputs_optionReg (s : State) : (drawInputs s).optionReg = s.optionReg := rfl
@[simp] theorem drawInputs_tmr0 (s : State) : (drawInputs s).tmr0 = Config.draw .tmr0 s.tick := rfl
@[simp] theorem drawInputs_tmr0Pre (s : State) : (drawInputs s).tmr0Pre = Config.count .tmr0Pre s.tick := rfl
@[simp] theorem drawInputs_latA (s : State) : (drawInputs s).latA = s.latA := rfl
@[simp] theorem drawInputs_latB (s : State) : (drawInputs s).latB = s.latB := rfl
@[simp] theorem drawInputs_trisA (s : State) : (drawInputs s).trisA = s.trisA := rfl
@[simp] theorem drawInputs_trisB (s : State) : (drawInputs s).trisB = s.trisB := rfl
@[simp] theorem drawInputs_pinsA (s : State) : (drawInputs s).pinsA = Config.draw .portA s.tick := rfl
@[simp] theorem drawInputs_pinsB (s : State) : (drawInputs s).pinsB = Config.draw .portB s.tick := rfl
@[simp] theorem drawInputs_eedata (s : State) : (drawInputs s).eedata = s.eedata := rfl
@[simp] theorem drawInputs_eeadr (s : State) : (drawInputs s).eeadr = s.eeadr := rfl
@[simp] theorem drawInputs_eecon1 (s : State) : (drawInputs s).eecon1 = s.eecon1 := rfl
@[simp] theorem drawInputs_eeUnlock (s : State) : (drawInputs s).eeUnlock = s.eeUnlock := rfl
@[simp] theorem drawInputs_eePending (s : State) : (drawInputs s).eePending = s.eePending := rfl
@[simp] theorem drawInputs_data (s : State) : (drawInputs s).data = s.data := rfl
@[simp] theorem drawInputs_eeprom (s : State) : (drawInputs s).eeprom = s.eeprom := rfl
@[simp] theorem drawInputs_prog (s : State) : (drawInputs s).prog = s.prog := rfl
@[simp] theorem drawInputs_stack (s : State) : (drawInputs s).stack = s.stack := rfl
@[simp] theorem drawInputs_sleeping (s : State) : (drawInputs s).sleeping = s.sleeping := rfl
@[simp] theorem drawInputs_wdt (s : State) : (drawInputs s).wdt = Config.count .wdt s.tick := rfl
@[simp] theorem drawInputs_wdtPre (s : State) : (drawInputs s).wdtPre = Config.count .wdtPre s.tick := rfl
@[simp] theorem drawInputs_deferred (s : State) : (drawInputs s).deferred = s.deferred := rfl
@[simp] theorem drawInputs_env (s : State) : (drawInputs s).env = s.env := rfl
@[simp] theorem drawInputs_tick (s : State) : (drawInputs s).tick = s.tick := rfl
@[simp] theorem drawInputs_cfg (s : State) : (drawInputs s).cfg = s.cfg := rfl

end Sys2Proof.Machine
end

