-- ==== Sys2Proof/Laws/Ops.lean ====
section
/-!
SUPPORT. What each shared operation can do, once: the file map as a chain of cases on the in-bank address, MemRead and
MemWrite, the stack, the interrupt, the reset action.
-/

namespace Sys2Proof.Machine

/-- The in-bank address is the file address modulo 0x80. -/
theorem inBank_toNat (a : FileAddr) : (inBank a).toNat = a.toNat % 0x80 := by
  simp [inBank, BitVec.extractLsb'_toNat]

/-- The in-bank address as a constant, by arithmetic. -/
theorem inBank_eq_iff (a : FileAddr) (k : FileField) : inBank a = k ↔ a.toNat % 0x80 = k.toNat := by
  rw [← inBank_toNat]
  exact BitVec.toNat_inj.symm

/-- The file map as a chain of cases on the in-bank address (R50, R51, R84). -/
theorem fileReg_eq (cfg : Config) (a : FileAddr) :
    fileReg cfg a =
      if a.getLsbD 8 then .error .bankBit8
      else if a.toNat % 0x80 = 0x00 then .ok .indf
      else if a.toNat % 0x80 = 0x01 then .ok (if a.getLsbD 7 then .option else .tmr0)
      else if a.toNat % 0x80 = 0x02 then .ok .pcl
      else if a.toNat % 0x80 = 0x03 then .ok .status
      else if a.toNat % 0x80 = 0x04 then .ok .fsr
      else if a.toNat % 0x80 = 0x05 then .ok (if a.getLsbD 7 then .trisA else .portA)
      else if a.toNat % 0x80 = 0x06 then .ok (if a.getLsbD 7 then .trisB else .portB)
      else if a.toNat % 0x80 = 0x08 then .ok (if a.getLsbD 7 then .eecon1 else .eedata)
      else if a.toNat % 0x80 = 0x09 then .ok (if a.getLsbD 7 then .eecon2 else .eeadr)
      else if a.toNat % 0x80 = 0x0A then .ok .pclath
      else if a.toNat % 0x80 = 0x0B then .ok .intcon
      else if inDataRanges cfg (inBank a) then .ok (.data (inBank a))
      else .error .unlistedFileAddress := by
  have key : ∀ k : FileField, (inBank a == k) = decide (a.toNat % 0x80 = k.toNat) := fun k => by
    rw [beq_eq_decide, decide_eq_decide]; exact inBank_eq_iff a k
  unfold fileReg sfrTable
  by_cases h8 : a.getLsbD 8 = true
  · simp only [h8, if_true]
  · simp only [h8, List.lookup, key]
    by_cases h0 : a.toNat % 0x80 = 0x00; · simp [h0]
    by_cases h1 : a.toNat % 0x80 = 0x01; · simp [h1]
    by_cases h2 : a.toNat % 0x80 = 0x02; · simp [h2]
    by_cases h3 : a.toNat % 0x80 = 0x03; · simp [h3]
    by_cases h4 : a.toNat % 0x80 = 0x04; · simp [h4]
    by_cases h5 : a.toNat % 0x80 = 0x05; · simp [h5]
    by_cases h6 : a.toNat % 0x80 = 0x06; · simp [h6]
    by_cases h8 : a.toNat % 0x80 = 0x08; · simp [h8]
    by_cases h9 : a.toNat % 0x80 = 0x09; · simp [h9]
    by_cases hA : a.toNat % 0x80 = 0x0A; · simp [hA]
    by_cases hB : a.toNat % 0x80 = 0x0B; · simp [hB]
    simp [h0, h1, h2, h3, h4, h5, h6, h8, h9, hA, hB]

/-- Which register the map gives an address, and what that says of the address (R50, R51, R84). -/
theorem fileReg_cases {cfg : Config} {a : FileAddr} {reg : FileReg} (h : fileReg cfg a = .ok reg) :
    a.getLsbD 8 = false ∧
      ((a.toNat % 0x80 = 0x00 ∧ reg = .indf) ∨
        (a.toNat % 0x80 = 0x01 ∧ reg = if a.getLsbD 7 then .option else .tmr0) ∨
        (a.toNat % 0x80 = 0x02 ∧ reg = .pcl) ∨ (a.toNat % 0x80 = 0x03 ∧ reg = .status) ∨
        (a.toNat % 0x80 = 0x04 ∧ reg = .fsr) ∨
        (a.toNat % 0x80 = 0x05 ∧ reg = if a.getLsbD 7 then .trisA else .portA) ∨
        (a.toNat % 0x80 = 0x06 ∧ reg = if a.getLsbD 7 then .trisB else .portB) ∨
        (a.toNat % 0x80 = 0x08 ∧ reg = if a.getLsbD 7 then .eecon1 else .eedata) ∨
        (a.toNat % 0x80 = 0x09 ∧ reg = if a.getLsbD 7 then .eecon2 else .eeadr) ∨
        (a.toNat % 0x80 = 0x0A ∧ reg = .pclath) ∨ (a.toNat % 0x80 = 0x0B ∧ reg = .intcon) ∨
        (isDataAddr cfg (inBank a) = true ∧ reg = .data (inBank a))) := by
  have hnum : (inBank a).toNat = a.toNat % 0x80 := inBank_toNat a
  rw [fileReg_eq] at h
  by_cases h8 : a.getLsbD 8 = true
  · rw [if_pos h8] at h; cases h
  rw [if_neg h8] at h
  refine ⟨Bool.eq_false_of_not_eq_true h8, ?_⟩
  by_cases k0 : a.toNat % 0x80 = 0x00
  · rw [if_pos k0] at h; cases h; exact Or.inl ⟨k0, rfl⟩
  rw [if_neg k0] at h
  by_cases k1 : a.toNat % 0x80 = 0x01
  · rw [if_pos k1] at h; cases h; exact Or.inr (Or.inl ⟨k1, rfl⟩)
  rw [if_neg k1] at h
  by_cases k2 : a.toNat % 0x80 = 0x02
  · rw [if_pos k2] at h; cases h; exact Or.inr (Or.inr (Or.inl ⟨k2, rfl⟩))
  rw [if_neg k2] at h
  by_cases k3 : a.toNat % 0x80 = 0x03
  · rw [if_pos k3] at h; cases h; exact Or.inr (Or.inr (Or.inr (Or.inl ⟨k3, rfl⟩)))
  rw [if_neg k3] at h
  by_cases k4 : a.toNat % 0x80 = 0x04
  · rw [if_pos k4] at h; cases h; exact Or.inr (Or.inr (Or.inr (Or.inr (Or.inl ⟨k4, rfl⟩))))
  rw [if_neg k4] at h
  by_cases k5 : a.toNat % 0x80 = 0x05
  · rw [if_pos k5] at h; cases h; exact Or.inr (Or.inr (Or.inr (Or.inr (Or.inr (Or.inl ⟨k5, rfl⟩)))))
  rw [if_neg k5] at h
  by_cases k6 : a.toNat % 0x80 = 0x06
  · rw [if_pos k6] at h; cases h; exact Or.inr (Or.inr (Or.inr (Or.inr (Or.inr (Or.inr (Or.inl ⟨k6, rfl⟩))))))
  rw [if_neg k6] at h
  by_cases k8 : a.toNat % 0x80 = 0x08
  · rw [if_pos k8] at h; cases h; exact Or.inr (Or.inr (Or.inr (Or.inr (Or.inr (Or.inr (Or.inr (Or.inl ⟨k8, rfl⟩)))))))
  rw [if_neg k8] at h
  by_cases k9 : a.toNat % 0x80 = 0x09
  · rw [if_pos k9] at h; cases h; exact Or.inr (Or.inr (Or.inr (Or.inr (Or.inr (Or.inr (Or.inr (Or.inr (Or.inl ⟨k9, rfl⟩))))))))
  rw [if_neg k9] at h
  by_cases kA : a.toNat % 0x80 = 0x0A
  · rw [if_pos kA] at h; cases h; exact Or.inr (Or.inr (Or.inr (Or.inr (Or.inr (Or.inr (Or.inr (Or.inr (Or.inr (Or.inl ⟨kA, rfl⟩)))))))))
  rw [if_neg kA] at h
  by_cases kB : a.toNat % 0x80 = 0x0B
  · rw [if_pos kB] at h; cases h; exact Or.inr (Or.inr (Or.inr (Or.inr (Or.inr (Or.inr (Or.inr (Or.inr (Or.inr (Or.inr (Or.inl ⟨kB, rfl⟩))))))))))
  rw [if_neg kB] at h
  by_cases hd : inDataRanges cfg (inBank a) = true
  · rw [if_pos hd] at h; cases h
    refine Or.inr (Or.inr (Or.inr (Or.inr (Or.inr (Or.inr (Or.inr (Or.inr (Or.inr (Or.inr (Or.inr ⟨?_, rfl⟩))))))))))
    simp only [isDataAddr, hd, Bool.and_true, Bool.or_eq_true, decide_eq_true_eq]
    omega
  rw [if_neg hd] at h; cases h

/-- A data-memory register of the map: its address and what the map says of it. -/
theorem fileReg_data {cfg : Config} {a : FileAddr} {r : FileField} (h : fileReg cfg a = .ok (.data r)) :
    r = inBank a ∧ isDataAddr cfg r = true := by
  obtain ⟨-, h⟩ := fileReg_cases h
  rcases h with ⟨-, h⟩ | ⟨-, h⟩ | ⟨-, h⟩ | ⟨-, h⟩ | ⟨-, h⟩ | ⟨-, h⟩ | ⟨-, h⟩ | ⟨-, h⟩ | ⟨-, h⟩ | ⟨-, h⟩ | ⟨-, h⟩ | ⟨hd, h⟩
  all_goals first
    | exact ⟨by cases h; rfl, by cases h; exact hd⟩
    | cases h
    | (split at h <;> cases h)

/-- PCL is named by the in-bank address 0x02 of either bank and by no other (R50). -/
theorem fileReg_pcl_iff {cfg : Config} {a : FileAddr} {reg : FileReg} (hreg : fileReg cfg a = .ok reg) :
    reg = .pcl ↔ inBank a = 0x02#7 := by
  have hd : isDataAddr cfg (inBank a) = true → (inBank a).toNat = 0x07 ∨ 0x0C ≤ (inBank a).toNat := by
    simp only [isDataAddr, Bool.and_eq_true, Bool.or_eq_true, decide_eq_true_eq]; exact fun h => h.1
  obtain ⟨-, h⟩ := fileReg_cases hreg
  clear hreg
  rw [inBank_toNat] at hd
  rw [inBank_eq_iff]
  generalize a.toNat % 0x80 = r at *
  rcases h with ⟨h, h'⟩ | ⟨h, h'⟩ | ⟨h, h'⟩ | ⟨h, h'⟩ | ⟨h, h'⟩ | ⟨h, h'⟩ | ⟨h, h'⟩ | ⟨h, h'⟩ | ⟨h, h'⟩ | ⟨h, h'⟩ |
    ⟨h, h'⟩ | ⟨h, h'⟩
  all_goals subst h'
  all_goals first
    | (subst h; simp; done)
    | (subst h; split <;> simp)
    | (have := hd h; simp; omega)

/-- The reason a file address has no register (R51, R84). -/
theorem fileReg_error {cfg : Config} {a : FileAddr} {e : Refusal} (h : fileReg cfg a = .error e) :
    (e = .bankBit8 ∧ a.getLsbD 8 = true) ∨
      (e = .unlistedFileAddress ∧ a.getLsbD 8 = false ∧ (a.toNat % 0x80 = 0x07 ∨ 0x0C ≤ a.toNat % 0x80) ∧
        inDataRanges cfg (inBank a) = false) := by
  rw [fileReg_eq] at h
  by_cases h8 : a.getLsbD 8 = true
  · rw [if_pos h8] at h; cases h; exact Or.inl ⟨rfl, h8⟩
  rw [if_neg h8] at h
  by_cases k0 : a.toNat % 0x80 = 0x00
  · rw [if_pos k0] at h; cases h
  rw [if_neg k0] at h
  by_cases k1 : a.toNat % 0x80 = 0x01
  · rw [if_pos k1] at h; cases h
  rw [if_neg k1] at h
  by_cases k2 : a.toNat % 0x80 = 0x02
  · rw [if_pos k2] at h; cases h
  rw [if_neg k2] at h
  by_cases k3 : a.toNat % 0x80 = 0x03
  · rw [if_pos k3] at h; cases h
  rw [if_neg k3] at h
  by_cases k4 : a.toNat % 0x80 = 0x04
  · rw [if_pos k4] at h; cases h
  rw [if_neg k4] at h
  by_cases k5 : a.toNat % 0x80 = 0x05
  · rw [if_pos k5] at h; cases h
  rw [if_neg k5] at h
  by_cases k6 : a.toNat % 0x80 = 0x06
  · rw [if_pos k6] at h; cases h
  rw [if_neg k6] at h
  by_cases k8 : a.toNat % 0x80 = 0x08
  · rw [if_pos k8] at h; cases h
  rw [if_neg k8] at h
  by_cases k9 : a.toNat % 0x80 = 0x09
  · rw [if_pos k9] at h; cases h
  rw [if_neg k9] at h
  by_cases kA : a.toNat % 0x80 = 0x0A
  · rw [if_pos kA] at h; cases h
  rw [if_neg kA] at h
  by_cases kB : a.toNat % 0x80 = 0x0B
  · rw [if_pos kB] at h; cases h
  rw [if_neg kB] at h
  by_cases hd : inDataRanges cfg (inBank a) = true
  · rw [if_pos hd] at h; cases h
  rw [if_neg hd] at h; cases h
  exact Or.inr ⟨rfl, Bool.eq_false_of_not_eq_true h8, by omega, Bool.eq_false_of_not_eq_true hd⟩

/-- An accessible address names a register, and EECON1 and EECON2 only with the device. -/
theorem fileReg_of_accessible {s : State} {a : FileAddr} (h : accessible s a = true) :
    ∃ reg, fileReg s.cfg a = .ok reg ∧ ((reg = .eecon1 ∨ reg = .eecon2) → s.cfg.eepromDevice = true) := by
  simp only [accessible, Bool.and_eq_true, Bool.not_eq_true', Bool.or_eq_true, decide_eq_true_eq] at h
  obtain ⟨h8, hr⟩ := h
  cases hreg : fileReg s.cfg a with
  | error e =>
    rcases fileReg_error hreg with ⟨-, h8'⟩ | ⟨-, -, hr', hd⟩
    · rw [h8] at h8'; cases h8'
    · simp only [isDataAddr, hd, Bool.and_false, Bool.false_eq_true, or_false] at hr
      omega
  | ok reg =>
    refine ⟨reg, rfl, fun hee => ?_⟩
    have hd : isDataAddr s.cfg (inBank a) = true → a.toNat % 0x80 = 0x07 ∨ 0x0C ≤ a.toNat % 0x80 := by
      simp only [isDataAddr, inBank_toNat, Bool.and_eq_true, Bool.or_eq_true, decide_eq_true_eq]; exact fun h => h.1
    obtain ⟨-, hc⟩ := fileReg_cases hreg
    generalize a.toNat % 0x80 = r at *
    rcases hc with ⟨h, h'⟩ | ⟨h, h'⟩ | ⟨h, h'⟩ | ⟨h, h'⟩ | ⟨h, h'⟩ | ⟨h, h'⟩ | ⟨h, h'⟩ | ⟨h, h'⟩ | ⟨h, h'⟩ | ⟨h, h'⟩ |
      ⟨h, h'⟩ | ⟨h, h'⟩
    all_goals subst h'
    all_goals generalize a.getLsbD 7 = b7 at *
    all_goals first
      | (rcases hee with hee | hee <;> cases b7 <;> (simp at hee; done))
      | skip
    all_goals
      rcases hr with ((((hr | hr) | hr) | ⟨-, hr⟩) | hr)
      · omega
      · omega
      · omega
      · rcases hr with hr | hr
        · rw [hr] at hee; rcases hee with hee | hee <;> cases hee
        · exact hr
      · have := hd hr; omega

/-- Stepping the program counter changes no file address's access. -/
@[simp] theorem accessible_advance (s : State) (a : FileAddr) : accessible s.advance a = accessible s a := rfl

/-- Every register but EECON1 and EECON2 is readable; those with the device. -/
theorem readReg_ok {s : State} {reg : FileReg}
    (h : (reg = .eecon1 ∨ reg = .eecon2) → s.cfg.eepromDevice = true) : ∃ v, readReg s reg = .ok v := by
  cases reg <;> simp_all [readReg]

/-- Every register but EECON1 and EECON2 is writable; those with the device. -/
theorem writeReg_ok {s : State} {reg : FileReg} (fl : Bool) (v : Byte)
    (h : (reg = .eecon1 ∨ reg = .eecon2) → s.cfg.eepromDevice = true) : ∃ t, writeReg s fl v reg = .ok t := by
  cases reg <;> simp_all [writeReg]

/-- A read of an accessible address gives a byte. -/
theorem memRead_of_accessible {s : State} {a : FileAddr} (h : accessible s a = true) : ∃ v, memRead s a = .ok v := by
  obtain ⟨reg, hreg, hee⟩ := fileReg_of_accessible h
  rw [memRead, hreg]
  exact readReg_ok hee

/-- A write to an accessible address gives a next state. -/
theorem memWrite_of_accessible {s : State} {a : FileAddr} (h : accessible s a = true) (fl : Bool) (v : Byte) :
    ∃ t, memWrite s a fl v = .ok t := by
  obtain ⟨reg, hreg, hee⟩ := fileReg_of_accessible h
  rw [memWrite, hreg]
  exact writeReg_ok fl v hee

/-- What a write that answers has done: the register of the map was written. -/
theorem memWrite_cases {s t : State} {a : FileAddr} {fl : Bool} {v : Byte} (h : memWrite s a fl v = .ok t) :
    ∃ reg, fileReg s.cfg a = .ok reg ∧ writeReg s fl v reg = .ok t := by
  unfold memWrite at h
  split at h
  · cases h
  · next reg hreg => exact ⟨reg, hreg, h⟩

/-- What a read that answers has done: the register of the map was read. -/
theorem memRead_cases {s : State} {a : FileAddr} {v : Byte} (h : memRead s a = .ok v) :
    ∃ reg, fileReg s.cfg a = .ok reg ∧ readReg s reg = .ok v := by
  unfold memRead at h
  split at h
  · cases h
  · next reg hreg => exact ⟨reg, hreg, h⟩

/-- What a push that answers has done (R99). -/
theorem push_cases {s t : State} {v : ProgAddr} (h : push s v = .ok t) :
    s.stack.length ≠ s.cfg.stackDepth ∧ t = { s with stack := v :: s.stack } := by
  unfold push at h
  split at h
  · cases h
  · next hne => cases h; exact ⟨hne, rfl⟩

/-- What a pop that answers has done (R99). -/
theorem popToPc_cases {s t : State} (h : popToPc s = .ok t) :
    ∃ a rest, s.stack = a :: rest ∧ t = { s with stack := rest, pc := a } := by
  unfold popToPc at h
  split at h
  · cases h
  · next a rest hst => cases h; exact ⟨a, rest, hst, rfl⟩

/-- What an interrupt entry that answers has done (R234). -/
theorem takeInterrupt_cases {s t : State} (h : takeInterrupt s = .ok t) :
    s.stack.length ≠ s.cfg.stackDepth ∧
      t = { s with intcon := setBit s.intcon 7 false, stack := s.pc :: s.stack, pc := 0x0004#13 } := by
  unfold takeInterrupt at h
  split at h
  · cases h
  · next u hu =>
    cases h
    obtain ⟨hne, rfl⟩ := push_cases hu
    exact ⟨hne, rfl⟩

/-- What a return from the interrupt that answers has done (R202). -/
theorem returnFromInterrupt_cases {s t : State} (h : returnFromInterrupt s = .ok t) :
    ∃ a rest, s.stack = a :: rest ∧
      t = { s with stack := rest, pc := a, intcon := setBit s.intcon 7 true } := by
  unfold returnFromInterrupt at h
  split at h
  · cases h
  · next u hu =>
    cases h
    obtain ⟨a, rest, hst, rfl⟩ := popToPc_cases hu
    exact ⟨a, rest, hst, rfl⟩

/-- An operation's answer becomes a next state exactly when it is one. -/
@[simp] theorem finish_next {r : Except Refusal State} {t : State} : finish r = .next t ↔ r = .ok t := by
  cases r <;> simp [finish]

/-- The outcome of an answer. -/
@[simp] theorem finish_ok (t : State) : finish (.ok t) = .next t := rfl

/-- The outcome of a refusal. -/
@[simp] theorem finish_error (e : Refusal) : finish (.error e) = .refused e := rfl

end Sys2Proof.Machine
end

