-- ==== Sys2Proof/Laws/Exec.lean ====
section
/-!
SUPPORT. Everything one instruction can do, said once: the shapes of Operands.lean inverted, and `ExecCase`, which lists
the forms of a next state. Later proofs take these cases instead of unfolding an instruction.
-/

namespace Sys2Proof.Machine

/-- What a byte-oriented instruction that answers has done (R88, R89). -/
theorem byteOp_cases {f : FileField} {d : Dest} {alu : Byte → AluResult} {s t : State}
    (h : byteOp f d alu s = .ok t) :
    ∃ v, memRead s (effAddr s f) = .ok v ∧
      ((d = .w ∧ t = { s.advance with w := (alu v).value }.setFlags (alu v).flags) ∨
        (d = .f ∧ ∃ u, memWrite s.advance (effAddr s f) (alu v).flags.writesAny (alu v).value = .ok u ∧
          t = u.setFlags (alu v).flags)) := by
  simp only [byteOp] at h
  split at h
  · cases h
  · next v hv =>
    refine ⟨v, hv, ?_⟩
    cases d with
    | w => simp only [writeDest] at h; cases h; exact Or.inl ⟨rfl, rfl⟩
    | f =>
      simp only [writeDest] at h
      split at h
      · cases h
      · next u hu => cases h; exact Or.inr ⟨rfl, u, hu, rfl⟩

/-- What MOVWF or CLRF has done when it answers (R88). -/
theorem storeOp_cases {f : FileField} {out : AluResult} {s t : State} (h : storeOp f out s = .ok t) :
    ∃ u, memWrite s.advance (effAddr s f) out.flags.writesAny out.value = .ok u ∧ t = u.setFlags out.flags := by
  unfold storeOp at h
  split at h
  · cases h
  · next u hu => cases h; exact ⟨u, hu, rfl⟩

/-- What DECFSZ or INCFSZ has done when it answers (R216, R217). -/
theorem byteSkipOp_cases {f : FileField} {d : Dest} {alu : Byte → Byte} {s t : State}
    (h : byteSkipOp f d alu s = .ok t) :
    ∃ v, memRead s (effAddr s f) = .ok v ∧
      ((d = .w ∧ t = skipIf (alu v == 0x00#8) { s.advance with w := alu v }) ∨
        (d = .f ∧ inBank (effAddr s f) ≠ 0x02#7 ∧
          ∃ u, memWrite s.advance (effAddr s f) false (alu v) = .ok u ∧ t = skipIf (alu v == 0x00#8) u)) := by
  simp only [byteSkipOp] at h
  split at h
  · cases h
  · next v hv =>
    refine ⟨v, hv, ?_⟩
    split at h
    · cases h
    next hne =>
    cases d with
    | w => simp only [writeDest] at h; cases h; exact Or.inl ⟨rfl, rfl⟩
    | f =>
      simp only [writeDest] at h
      split at h
      · cases h
      · next u hu =>
        cases h
        exact Or.inr ⟨rfl, fun hb => hne ⟨rfl, hb⟩, u, hu, rfl⟩

/-- What BTFSC or BTFSS has done when it answers (R218, R219). -/
theorem bitSkipOp_cases {f : FileField} {b : BitIndex} {want : Bool} {s t : State}
    (h : bitSkipOp f b want s = .ok t) :
    ∃ v, memRead s (effAddr s f) = .ok v ∧ t = skipIf (v.getLsbD b.toNat == want) s.advance := by
  unfold bitSkipOp at h
  split at h
  · cases h
  · next v hv => cases h; exact ⟨v, hv, rfl⟩

/-- The flag writes `u` are those of the instruction: a flag is written exactly where its rule writes it (R27 to R29). -/
def FlagsOf (i : Instr) (u : FlagUpdate) : Prop :=
  u.z.isSome = writesZ i ∧ u.dc.isSome = writesDC i ∧ u.c.isSome = writesC i

/-- The forms of the next state an instruction gives. -/
inductive ExecCase (i : Instr) (s : State) : State → Prop where
  /-- The register `reg` at the effective address is written, then the flags; a skip may follow, never after PCL. -/
  | store (a : FileAddr) (reg : FileReg) (v : Byte) (fl : FlagUpdate) (u : State) (skip : Bool)
      (dst : storesTo i s = some a) (names : fileReg s.cfg a = .ok reg)
      (writes : writeReg s.advance fl.writesAny v reg = .ok u) (flags : FlagsOf i fl)
      (notW : writesW i = false) (notReturn : isReturn i = false) (notJump : isJump i = false)
      (skips : skip = true → isSkip i = true) (notPcl : isSkip i = true → reg ≠ .pcl) :
      ExecCase i s (skipIf skip (u.setFlags fl))
  /-- W receives the result, then the flags are written; a skip may follow. -/
  | result (v : Byte) (fl : FlagUpdate) (skip : Bool)
      (dst : storesTo i s = none) (flags : FlagsOf i fl) (toW : writesW i = true) (notReturn : isReturn i = false)
      (skips : skip = true → isSkip i = true) : ExecCase i s (skipIf skip ({ s.advance with w := v }.setFlags fl))
  /-- NOP, BTFSC and BTFSS: the program counter alone moves. -/
  | move (skip : Bool) (dst : storesTo i s = none) (notReturn : isReturn i = false)
      (skips : skip = true → isSkip i = true) : ExecCase i s (skipIf skip s.advance)
  /-- RETURN, RETFIE, RETLW. -/
  | pop (a : ProgAddr) (rest : List ProgAddr) (w intcon : Byte) (is : isReturn i = true) (dst : storesTo i s = none)
      (top : s.stack = a :: rest) (keepsW : writesW i = false → w = s.w) (keepsInt : i ≠ .retfie → intcon = s.intcon) :
      ExecCase i s { s with stack := rest, pc := a, w := w, intcon := intcon }
  /-- CALL. -/
  | call (k : BitVec 11) (is : i = .call k) (room : s.stack.length ≠ s.cfg.stackDepth) :
      ExecCase i s { s with stack := (s.pc + 1#13) :: s.stack, pc := jumpTarget s k }
  /-- GOTO. -/
  | goto (k : BitVec 11) (is : i = .goto k) : ExecCase i s { s with pc := jumpTarget s k }
  /-- OPTION. -/
  | option (is : i = .option) : ExecCase i s { s.advance with optionReg := s.w }
  /-- TRIS 5. -/
  | trisA (is : i = .tris 5#3) : ExecCase i s { s.advance with trisA := s.w }
  /-- TRIS 6. -/
  | trisB (is : i = .tris 6#3) : ExecCase i s { s.advance with trisB := s.w }
  /-- SLEEP. -/
  | sleep (is : i = .sleep) :
      ExecCase i s { s.advance.setToPd true false with wdt := 0, wdtPre := 0, sleeping := true }
  /-- CLRWDT. -/
  | clrwdt (is : i = .clrwdt) : ExecCase i s { s.advance.setToPd true true with wdt := 0, wdtPre := 0 }

/-- The case of a byte-oriented instruction. -/
theorem ExecCase.ofByteOp {i : Instr} {f : FileField} {d : Dest} {alu : Byte → AluResult} {s t : State}
    (h : byteOp f d alu s = .ok t) (hf : fileOperand i = some f)
    (hs : storesFile i = (d == .f)) (hw : writesW i = (d == .w)) (hr : isReturn i = false) (hj : isJump i = false)
    (hk : isSkip i = false) (hfl : ∀ v, FlagsOf i (alu v).flags) : ExecCase i s t := by
  obtain ⟨v, -, ⟨rfl, rfl⟩ | ⟨rfl, u, hu, rfl⟩⟩ := byteOp_cases h
  · exact .result _ _ false (by simp [storesTo, hs]) (hfl v) hw hr (by simp)
  · obtain ⟨reg, hreg, hwr⟩ := memWrite_cases hu
    exact .store _ reg _ _ u false (by simp [storesTo, hs, hf]) hreg hwr (hfl v) (hw.trans rfl) hr hj (by simp)
      (by simp [hk])

/-- The case of MOVWF and CLRF. -/
theorem ExecCase.ofStoreOp {i : Instr} {f : FileField} {out : AluResult} {s t : State}
    (h : storeOp f out s = .ok t) (hf : fileOperand i = some f) (hs : storesFile i = true) (hw : writesW i = false)
    (hr : isReturn i = false) (hj : isJump i = false) (hk : isSkip i = false) (hfl : FlagsOf i out.flags) :
    ExecCase i s t := by
  obtain ⟨u, hu, rfl⟩ := storeOp_cases h
  obtain ⟨reg, hreg, hwr⟩ := memWrite_cases hu
  exact .store _ reg _ _ u false (by simp [storesTo, hs, hf]) hreg hwr hfl hw hr hj (by simp) (by simp [hk])

/-- The case of DECFSZ and INCFSZ. -/
theorem ExecCase.ofByteSkipOp {i : Instr} {f : FileField} {d : Dest} {alu : Byte → Byte} {s t : State}
    (h : byteSkipOp f d alu s = .ok t) (hf : fileOperand i = some f)
    (hs : storesFile i = (d == .f)) (hw : writesW i = (d == .w)) (hr : isReturn i = false) (hj : isJump i = false)
    (hk : isSkip i = true) (hfl : FlagsOf i FlagUpdate.nothing) : ExecCase i s t := by
  obtain ⟨v, -, ⟨rfl, rfl⟩ | ⟨rfl, hne, u, hu, rfl⟩⟩ := byteSkipOp_cases h
  · have := ExecCase.result (i := i) (s := s) (alu v) FlagUpdate.nothing (alu v == 0x00#8) (by simp [storesTo, hs]) hfl
      hw hr (fun _ => hk)
    rwa [State.setFlags_nothing] at this
  · obtain ⟨reg, hreg, hwr⟩ := memWrite_cases hu
    have := ExecCase.store (i := i) (s := s) _ reg (alu v) FlagUpdate.nothing u (alu v == 0x00#8)
      (by simp [storesTo, hs, hf]) hreg hwr hfl (hw.trans rfl) hr hj (fun _ => hk)
      (fun _ hp => hne ((fileReg_pcl_iff hreg).mp hp))
    rwa [State.setFlags_nothing] at this

/-- The case of a literal instruction other than RETLW, and of CLRW. -/
theorem ExecCase.ofLiteralOp {i : Instr} {out : AluResult} {s t : State} (h : .next (literalOp out s) = exec i s)
    (ht : exec i s = .next t) (hs : storesFile i = false) (hw : writesW i = true) (hr : isReturn i = false)
    (hfl : FlagsOf i out.flags) : ExecCase i s t := by
  rw [← h] at ht
  cases ht
  exact .result _ _ false (by simp [storesTo, hs]) hfl hw hr (by simp)

/-- Every next state an instruction gives is one of the listed forms. -/
theorem exec_cases {i : Instr} {s t : State} (h : exec i s = .next t) : ExecCase i s t := by
  cases i with
  | nop => cases h; exact .move false rfl rfl (by simp)
  | ret =>
    obtain ⟨a, rest, hst, rfl⟩ := popToPc_cases (finish_next.mp h)
    exact .pop a rest s.w s.intcon rfl rfl hst (fun _ => rfl) (fun _ => rfl)
  | retfie =>
    obtain ⟨a, rest, hst, rfl⟩ := returnFromInterrupt_cases (finish_next.mp h)
    exact .pop a rest s.w _ rfl rfl hst (fun _ => rfl) (fun hn => absurd rfl hn)
  | retlw k =>
    obtain ⟨a, rest, hst, rfl⟩ := popToPc_cases (finish_next.mp h)
    exact .pop a rest k s.intcon rfl rfl hst (fun hn => by cases hn) (fun _ => rfl)
  | option => cases h; exact .option rfl
  | sleep => cases h; exact .sleep rfl
  | clrwdt => cases h; exact .clrwdt rfl
  | tris f =>
    simp only [exec, execTris] at h
    split at h
    · next hf => subst hf; cases h; exact .trisA rfl
    · split at h
      · next hf => subst hf; cases h; exact .trisB rfl
      · cases h
  | call k =>
    simp only [exec, execCall] at h
    split at h
    · cases h
    · next u hu =>
      cases h
      obtain ⟨hne, rfl⟩ := push_cases hu
      exact .call k rfl hne
  | goto k => cases h; exact .goto k rfl
  | movwf f => exact .ofStoreOp (finish_next.mp h) rfl rfl rfl rfl rfl rfl ⟨rfl, rfl, rfl⟩
  | clrf f => exact .ofStoreOp (finish_next.mp h) rfl rfl rfl rfl rfl rfl ⟨rfl, rfl, rfl⟩
  | clrw => exact .ofLiteralOp rfl h rfl rfl rfl ⟨rfl, rfl, rfl⟩
  | movlw k => exact .ofLiteralOp rfl h rfl rfl rfl ⟨rfl, rfl, rfl⟩
  | iorlw k => exact .ofLiteralOp rfl h rfl rfl rfl ⟨rfl, rfl, rfl⟩
  | andlw k => exact .ofLiteralOp rfl h rfl rfl rfl ⟨rfl, rfl, rfl⟩
  | xorlw k => exact .ofLiteralOp rfl h rfl rfl rfl ⟨rfl, rfl, rfl⟩
  | sublw k => exact .ofLiteralOp rfl h rfl rfl rfl ⟨rfl, rfl, rfl⟩
  | addlw k => exact .ofLiteralOp rfl h rfl rfl rfl ⟨rfl, rfl, rfl⟩
  | bcf f b => exact .ofByteOp (finish_next.mp h) rfl rfl rfl rfl rfl rfl fun _ => ⟨rfl, rfl, rfl⟩
  | bsf f b => exact .ofByteOp (finish_next.mp h) rfl rfl rfl rfl rfl rfl fun _ => ⟨rfl, rfl, rfl⟩
  | btfsc f b =>
    obtain ⟨v, -, rfl⟩ := bitSkipOp_cases (finish_next.mp h)
    exact .move _ rfl rfl (fun _ => rfl)
  | btfss f b =>
    obtain ⟨v, -, rfl⟩ := bitSkipOp_cases (finish_next.mp h)
    exact .move _ rfl rfl (fun _ => rfl)
  | decfsz f d =>
    cases d <;> exact .ofByteSkipOp (finish_next.mp h) rfl rfl rfl rfl rfl rfl ⟨rfl, rfl, rfl⟩
  | incfsz f d =>
    cases d <;> exact .ofByteSkipOp (finish_next.mp h) rfl rfl rfl rfl rfl rfl ⟨rfl, rfl, rfl⟩
  | subwf f d => cases d <;> exact .ofByteOp (finish_next.mp h) rfl rfl rfl rfl rfl rfl fun _ => ⟨rfl, rfl, rfl⟩
  | decf f d => cases d <;> exact .ofByteOp (finish_next.mp h) rfl rfl rfl rfl rfl rfl fun _ => ⟨rfl, rfl, rfl⟩
  | iorwf f d => cases d <;> exact .ofByteOp (finish_next.mp h) rfl rfl rfl rfl rfl rfl fun _ => ⟨rfl, rfl, rfl⟩
  | andwf f d => cases d <;> exact .ofByteOp (finish_next.mp h) rfl rfl rfl rfl rfl rfl fun _ => ⟨rfl, rfl, rfl⟩
  | xorwf f d => cases d <;> exact .ofByteOp (finish_next.mp h) rfl rfl rfl rfl rfl rfl fun _ => ⟨rfl, rfl, rfl⟩
  | addwf f d => cases d <;> exact .ofByteOp (finish_next.mp h) rfl rfl rfl rfl rfl rfl fun _ => ⟨rfl, rfl, rfl⟩
  | movf f d => cases d <;> exact .ofByteOp (finish_next.mp h) rfl rfl rfl rfl rfl rfl fun _ => ⟨rfl, rfl, rfl⟩
  | comf f d => cases d <;> exact .ofByteOp (finish_next.mp h) rfl rfl rfl rfl rfl rfl fun _ => ⟨rfl, rfl, rfl⟩
  | incf f d => cases d <;> exact .ofByteOp (finish_next.mp h) rfl rfl rfl rfl rfl rfl fun _ => ⟨rfl, rfl, rfl⟩
  | rrf f d => cases d <;> exact .ofByteOp (finish_next.mp h) rfl rfl rfl rfl rfl rfl fun _ => ⟨rfl, rfl, rfl⟩
  | rlf f d => cases d <;> exact .ofByteOp (finish_next.mp h) rfl rfl rfl rfl rfl rfl fun _ => ⟨rfl, rfl, rfl⟩
  | swapf f d => cases d <;> exact .ofByteOp (finish_next.mp h) rfl rfl rfl rfl rfl rfl fun _ => ⟨rfl, rfl, rfl⟩

end Sys2Proof.Machine
end

