-- ==== Sys2Proof/Laws/Memory.lean ====
section
/-!
SUPPORT. Byte memory and program memory: a read after a write, the canonical form is kept, and equal contents are equal
data.
-/

namespace Sys2Proof.Machine

/-- The head of a canonical memory is below everything after it. -/
theorem Memory.wf_cons {bound k : Nat} {x : Byte} {m : Memory} :
    Memory.wf bound ((k, x) :: m) = true ↔
      k < bound ∧ x ≠ Memory.unlisted ∧ (∀ cell ∈ m, k < cell.1) ∧ Memory.wf bound m = true := by
  induction m generalizing k x with
  | nil => simp [Memory.wf]
  | cons c m ih =>
    obtain ⟨k', x'⟩ := c
    have hstep : Memory.wf bound ((k, x) :: (k', x') :: m) = true ↔
        k < k' ∧ x ≠ Memory.unlisted ∧ Memory.wf bound ((k', x') :: m) = true := by
      simp [Memory.wf, and_assoc]
    rw [hstep, ih]
    constructor
    · rintro ⟨hk, hx, hb, hx', hall, hwf⟩
      refine ⟨by omega, hx, ?_, hb, hx', hall, hwf⟩
      intro cell hc
      rcases List.mem_cons.mp hc with rfl | hc
      · exact hk
      · exact hk.trans (hall cell hc)
    · rintro ⟨_, hx, hall, hb, hx', hall', hwf⟩
      exact ⟨hall (k', x') List.mem_cons_self, hx, hb, hx', hall', hwf⟩

/-- A canonical memory reads the unlisted byte below its first address. -/
theorem Memory.read_of_lt {m : Memory} {a : Nat} (h : ∀ cell ∈ m, a < cell.1) : m.read a = Memory.unlisted := by
  induction m with
  | nil => rfl
  | cons c m ih =>
    have hc := h c List.mem_cons_self
    rw [Memory.read, if_neg (by omega)]
    exact ih fun cell hm => h cell (List.mem_cons_of_mem _ hm)

/-- A read elsewhere than at the written address. -/
theorem Memory.read_write_ne {a b : Nat} (h : a ≠ b) (m : Memory) (v : Byte) : (m.write a v).read b = m.read b := by
  induction m with
  | nil => by_cases hv : v = Memory.unlisted <;> simp [Memory.write, Memory.cons, Memory.read, hv, h]
  | cons c m ih =>
    obtain ⟨k, x⟩ := c
    rw [Memory.write]
    split
    · by_cases hv : v = Memory.unlisted <;> simp [Memory.cons, Memory.read, hv, h]
    · split
      · next hk => subst hk; by_cases hv : v = Memory.unlisted <;> simp [Memory.cons, Memory.read, hv, h]
      · simp only [Memory.read, ih]

/-- A read at the written address gives the written value. -/
theorem Memory.read_write_same {bound : Nat} {m : Memory} (hm : m.wf bound = true) (a : Nat) (v : Byte) :
    (m.write a v).read a = v := by
  induction m with
  | nil => by_cases hv : v = Memory.unlisted <;> simp [Memory.write, Memory.cons, Memory.read, hv]
  | cons c m ih =>
    obtain ⟨k, x⟩ := c
    obtain ⟨-, -, hall, hwf⟩ := Memory.wf_cons.mp hm
    rw [Memory.write]
    split
    · next hlt =>
      by_cases hv : v = Memory.unlisted
      · subst hv
        rw [Memory.cons, if_pos rfl]
        refine Memory.read_of_lt fun cell hc => ?_
        rcases List.mem_cons.mp hc with rfl | hc
        · exact hlt
        · exact hlt.trans (hall cell hc)
      · simp [Memory.cons, Memory.read, hv]
    · split
      · next hk =>
        subst hk
        by_cases hv : v = Memory.unlisted
        · subst hv
          rw [Memory.cons, if_pos rfl]
          exact Memory.read_of_lt hall
        · simp [Memory.cons, Memory.read, hv]
      · next hlt hne => rw [Memory.read, if_neg (by omega)]; exact ih hwf

/-- What a write can add to the list: only the written address. -/
theorem Memory.mem_write {m : Memory} {a : Nat} {v : Byte} {cell : Host.Cell} (h : cell ∈ m.write a v) :
    cell ∈ m ∨ (cell.1 = a ∧ cell.2 = v ∧ v ≠ Memory.unlisted) := by
  induction m with
  | nil =>
    by_cases hv : v = Memory.unlisted
    · simp [Memory.write, Memory.cons, hv] at h
    · simp only [Memory.write, Memory.cons, hv, if_false, List.mem_singleton] at h
      subst h; exact Or.inr ⟨rfl, rfl, hv⟩
  | cons c m ih =>
    obtain ⟨k, x⟩ := c
    rw [Memory.write] at h
    split at h
    · by_cases hv : v = Memory.unlisted
      · simp only [Memory.cons, hv, if_true] at h; exact Or.inl h
      · simp only [Memory.cons, hv, if_false] at h
        rcases List.mem_cons.mp h with rfl | h
        · exact Or.inr ⟨rfl, rfl, hv⟩
        · exact Or.inl h
    · split at h
      · by_cases hv : v = Memory.unlisted
        · simp only [Memory.cons, hv, if_true] at h; exact Or.inl (List.mem_cons_of_mem _ h)
        · simp only [Memory.cons, hv, if_false] at h
          rcases List.mem_cons.mp h with rfl | h
          · exact Or.inr ⟨rfl, rfl, hv⟩
          · exact Or.inl (List.mem_cons_of_mem _ h)
      · rcases List.mem_cons.mp h with rfl | h
        · exact Or.inl List.mem_cons_self
        · exact (ih h).imp (List.mem_cons_of_mem _) id

/-- A write keeps the canonical form. -/
theorem Memory.wf_write {bound a : Nat} {m : Memory} (hm : m.wf bound = true) (ha : a < bound) (v : Byte) :
    (m.write a v).wf bound = true := by
  induction m with
  | nil => by_cases hv : v = Memory.unlisted <;> simp [Memory.write, Memory.cons, Memory.wf, hv, ha]
  | cons c m ih =>
    obtain ⟨k, x⟩ := c
    obtain ⟨hk, hx, hall, hwf⟩ := Memory.wf_cons.mp hm
    rw [Memory.write]
    split
    · next hlt =>
      by_cases hv : v = Memory.unlisted
      · simpa [Memory.cons, hv] using hm
      · rw [Memory.cons, if_neg hv, Memory.wf_cons]
        refine ⟨ha, hv, fun cell hc => ?_, hm⟩
        rcases List.mem_cons.mp hc with rfl | hc
        · exact hlt
        · exact hlt.trans (hall cell hc)
    · split
      · next heq =>
        subst heq
        by_cases hv : v = Memory.unlisted
        · simpa [Memory.cons, hv] using hwf
        · rw [Memory.cons, if_neg hv, Memory.wf_cons]; exact ⟨ha, hv, hall, hwf⟩
      · rw [Memory.wf_cons]
        refine ⟨hk, hx, fun cell hc => ?_, ih hwf⟩
        rcases Memory.mem_write hc with hc | ⟨h1, -, -⟩
        · exact hall cell hc
        · omega

/-- Canonical memories with the same contents are the same data. -/
theorem Memory.ext_of_wf {bound : Nat} {m n : Memory} (hm : m.wf bound = true) (hn : n.wf bound = true)
    (h : ∀ a, m.read a = n.read a) : m = n := by
  induction m generalizing n with
  | nil =>
    cases n with
    | nil => rfl
    | cons c n =>
      obtain ⟨k, x⟩ := c
      have := h k
      simp [Memory.read, (Memory.wf_cons.mp hn).2.1.symm] at this
  | cons c m ih =>
    obtain ⟨k, x⟩ := c
    obtain ⟨-, hx, hall, hwf⟩ := Memory.wf_cons.mp hm
    cases n with
    | nil => have := h k; simp [Memory.read, hx] at this
    | cons c' n =>
      obtain ⟨k', x'⟩ := c'
      obtain ⟨-, hx', hall', hwf'⟩ := Memory.wf_cons.mp hn
      have hk : k = k' := by
        rcases Nat.lt_trichotomy k k' with hlt | heq | hlt
        · have := h k
          rw [Memory.read, if_pos rfl, Memory.read, if_neg (by omega),
            Memory.read_of_lt fun cell hc => hlt.trans (hall' cell hc)] at this
          exact absurd this hx
        · exact heq
        · have := h k'
          rw [Memory.read, if_neg (by omega), Memory.read_of_lt fun cell hc => hlt.trans (hall cell hc),
            Memory.read, if_pos rfl] at this
          exact absurd this.symm hx'
      subst hk
      have hxx : x = x' := by simpa [Memory.read] using h k
      subst hxx
      rw [ih hwf hwf' fun a => ?_]
      by_cases ha : k = a
      · subst ha; rw [Memory.read_of_lt hall, Memory.read_of_lt hall']
      · simpa [Memory.read, ha] using h a

/-- The head of a canonical program is below everything after it. -/
theorem Program.wf_cons {k : Nat} {x : InstrWord} {p : Program} :
    Program.wf ((k, x) :: p) = true ↔ k < 0x2000 ∧ (∀ cell ∈ p, k < cell.1) ∧ Program.wf p = true := by
  induction p generalizing k x with
  | nil => simp [Program.wf]
  | cons c p ih =>
    obtain ⟨k', x'⟩ := c
    have hstep : Program.wf ((k, x) :: (k', x') :: p) = true ↔ k < k' ∧ Program.wf ((k', x') :: p) = true := by
      simp [Program.wf]
    rw [hstep, ih]
    constructor
    · rintro ⟨hk, hb, hall, hwf⟩
      refine ⟨by omega, fun cell hc => ?_, hb, hall, hwf⟩
      rcases List.mem_cons.mp hc with rfl | hc
      · exact hk
      · exact hk.trans (hall cell hc)
    · rintro ⟨_, hall, hb, hall', hwf⟩
      exact ⟨hall (k', x') List.mem_cons_self, hb, hall', hwf⟩

/-- The word placed at an address is read there, and every other address is as before. -/
theorem Program.read_write (p : Program) (a b : Nat) (v : InstrWord) :
    (p.write a v).read b = if a = b then some v else p.read b := by
  induction p with
  | nil => rfl
  | cons c p ih =>
    obtain ⟨k, x⟩ := c
    rw [Program.write]
    split
    · rfl
    · split
      · next h => subst h; simp only [Program.read]; split <;> rfl
      · next h1 h2 =>
        simp only [Program.read, ih]
        split
        · next hk => rw [if_neg (by omega)]
        · rfl

/-- What placing a word can add to the list: only its address. -/
theorem Program.mem_write {p : Program} {a : Nat} {v : InstrWord} {cell : Nat × InstrWord} (h : cell ∈ p.write a v) :
    cell ∈ p ∨ cell = (a, v) := by
  induction p with
  | nil => exact Or.inr (by simpa [Program.write] using h)
  | cons c p ih =>
    obtain ⟨k, x⟩ := c
    rw [Program.write] at h
    split at h
    · rcases List.mem_cons.mp h with h | h
      · exact Or.inr h
      · exact Or.inl h
    · split at h
      · rcases List.mem_cons.mp h with h | h
        · exact Or.inr h
        · exact Or.inl (List.mem_cons_of_mem _ h)
      · rcases List.mem_cons.mp h with rfl | h
        · exact Or.inl List.mem_cons_self
        · exact (ih h).imp (List.mem_cons_of_mem _) id

/-- Placing a word keeps the canonical form. -/
theorem Program.wf_write {a : Nat} {p : Program} (hp : p.wf = true) (ha : a < 0x2000) (v : InstrWord) :
    (p.write a v).wf = true := by
  induction p with
  | nil => simp [Program.write, Program.wf, ha]
  | cons c p ih =>
    obtain ⟨k, x⟩ := c
    obtain ⟨hk, hall, hwf⟩ := Program.wf_cons.mp hp
    rw [Program.write]
    split
    · next hlt =>
      rw [Program.wf_cons]
      refine ⟨ha, fun cell hc => ?_, hp⟩
      rcases List.mem_cons.mp hc with rfl | hc
      · exact hlt
      · exact hlt.trans (hall cell hc)
    · split
      · next heq => subst heq; rw [Program.wf_cons]; exact ⟨ha, hall, hwf⟩
      · next h1 h2 =>
        rw [Program.wf_cons]
        refine ⟨hk, fun cell hc => ?_, ih hwf⟩
        rcases Program.mem_write hc with hc | rfl
        · exact hall cell hc
        · change k < a; omega

/-- The memories of the reset state are in canonical form. -/
theorem reset_memories_wf :
    State.reset.data.wf 0x80 = true ∧ State.reset.eeprom.wf 0x40 = true ∧ State.reset.prog.wf = true :=
  ⟨rfl, rfl, rfl⟩

end Sys2Proof.Machine
end

