-- ==== Sys2Proof/Laws/PerInstr.lean ====
section
/-!
SUPPORT. The encoder against the opcode table (30_encoding.md R125), instruction by instruction: the word of every
well-formed instruction has the fixed bits of its row.
-/

namespace Sys2Proof.Laws

/-- The fixed bits of an instruction's row of the opcode table: 1 where the row fixes the bit. TRIS has two rows. -/
def rowMask (i : Instr) : InstrWord :=
  match i with
  | .nop => 0x3F9F#14
  | .ret => 0x3FFF#14
  | .retfie => 0x3FFF#14
  | .option => 0x3FFF#14
  | .sleep => 0x3FFF#14
  | .clrwdt => 0x3FFF#14
  | .tris f => if f = 5#3 then 0x3FFF#14 else 0x3FFE#14
  | .movwf _ => 0x3F80#14
  | .clrw => 0x3F80#14
  | .clrf _ => 0x3F80#14
  | .subwf _ _ => 0x3F00#14
  | .decf _ _ => 0x3F00#14
  | .iorwf _ _ => 0x3F00#14
  | .andwf _ _ => 0x3F00#14
  | .xorwf _ _ => 0x3F00#14
  | .addwf _ _ => 0x3F00#14
  | .movf _ _ => 0x3F00#14
  | .comf _ _ => 0x3F00#14
  | .incf _ _ => 0x3F00#14
  | .decfsz _ _ => 0x3F00#14
  | .rrf _ _ => 0x3F00#14
  | .rlf _ _ => 0x3F00#14
  | .swapf _ _ => 0x3F00#14
  | .incfsz _ _ => 0x3F00#14
  | .bcf _ _ => 0x3C00#14
  | .bsf _ _ => 0x3C00#14
  | .btfsc _ _ => 0x3C00#14
  | .btfss _ _ => 0x3C00#14
  | .call _ => 0x3800#14
  | .goto _ => 0x3800#14
  | .movlw _ => 0x3C00#14
  | .retlw _ => 0x3C00#14
  | .iorlw _ => 0x3F00#14
  | .andlw _ => 0x3F00#14
  | .xorlw _ => 0x3F00#14
  | .sublw _ => 0x3E00#14
  | .addlw _ => 0x3E00#14

/-- The values of those bits. -/
def rowMatch (i : Instr) : InstrWord :=
  match i with
  | .nop => 0x0000#14
  | .ret => 0x0008#14
  | .retfie => 0x0009#14
  | .option => 0x0062#14
  | .sleep => 0x0063#14
  | .clrwdt => 0x0064#14
  | .tris f => if f = 5#3 then 0x0065#14 else 0x0066#14
  | .movwf _ => 0x0080#14
  | .clrw => 0x0100#14
  | .clrf _ => 0x0180#14
  | .subwf _ _ => 0x0200#14
  | .decf _ _ => 0x0300#14
  | .iorwf _ _ => 0x0400#14
  | .andwf _ _ => 0x0500#14
  | .xorwf _ _ => 0x0600#14
  | .addwf _ _ => 0x0700#14
  | .movf _ _ => 0x0800#14
  | .comf _ _ => 0x0900#14
  | .incf _ _ => 0x0A00#14
  | .decfsz _ _ => 0x0B00#14
  | .rrf _ _ => 0x0C00#14
  | .rlf _ _ => 0x0D00#14
  | .swapf _ _ => 0x0E00#14
  | .incfsz _ _ => 0x0F00#14
  | .bcf _ _ => 0x1000#14
  | .bsf _ _ => 0x1400#14
  | .btfsc _ _ => 0x1800#14
  | .btfss _ _ => 0x1C00#14
  | .call _ => 0x2000#14
  | .goto _ => 0x2800#14
  | .movlw _ => 0x3000#14
  | .retlw _ => 0x3400#14
  | .iorlw _ => 0x3800#14
  | .andlw _ => 0x3900#14
  | .xorlw _ => 0x3A00#14
  | .sublw _ => 0x3C00#14
  | .addlw _ => 0x3E00#14

/-- The word of the instruction fits its row. -/
def FitsRow.Statement (i : Instr) : Prop := i.wellFormed = true → encode i &&& rowMask i = rowMatch i

/-- A mask whose low part is 0 does not see the low part of a word. -/
theorem and_append_zero {n m : Nat} (a mask : BitVec n) (b : BitVec m) :
    (a ++ b) &&& (mask ++ 0#m) = (a &&& mask) ++ 0#m := by
  rw [BitVec.and_append, BitVec.and_zero]

theorem FitsRow.nop : FitsRow.Statement (.nop) :=
  fun _ => rfl
theorem FitsRow.ret : FitsRow.Statement (.ret) :=
  fun _ => rfl
theorem FitsRow.retfie : FitsRow.Statement (.retfie) :=
  fun _ => rfl
theorem FitsRow.option : FitsRow.Statement (.option) :=
  fun _ => rfl
theorem FitsRow.sleep : FitsRow.Statement (.sleep) :=
  fun _ => rfl
theorem FitsRow.clrwdt : FitsRow.Statement (.clrwdt) :=
  fun _ => rfl
theorem FitsRow.tris (f : BitVec 3) : FitsRow.Statement (.tris f) := by
  revert f
  unfold FitsRow.Statement
  decide
theorem FitsRow.movwf (f : FileField) : FitsRow.Statement (.movwf f) :=
  fun _ => (and_append_zero 0b0000001#7 0b1111111#7 f).trans rfl
theorem FitsRow.clrw : FitsRow.Statement (.clrw) :=
  fun _ => rfl
theorem FitsRow.clrf (f : FileField) : FitsRow.Statement (.clrf f) :=
  fun _ => (and_append_zero 0b0000011#7 0b1111111#7 f).trans rfl
theorem FitsRow.subwf (f : FileField) (d : Dest) : FitsRow.Statement (.subwf f d) := fun _ => by
  cases d
  · exact (and_append_zero 0b0000100#7 0b1111110#7 f).trans rfl
  · exact (and_append_zero 0b0000101#7 0b1111110#7 f).trans rfl
theorem FitsRow.decf (f : FileField) (d : Dest) : FitsRow.Statement (.decf f d) := fun _ => by
  cases d
  · exact (and_append_zero 0b0000110#7 0b1111110#7 f).trans rfl
  · exact (and_append_zero 0b0000111#7 0b1111110#7 f).trans rfl
theorem FitsRow.iorwf (f : FileField) (d : Dest) : FitsRow.Statement (.iorwf f d) := fun _ => by
  cases d
  · exact (and_append_zero 0b0001000#7 0b1111110#7 f).trans rfl
  · exact (and_append_zero 0b0001001#7 0b1111110#7 f).trans rfl
theorem FitsRow.andwf (f : FileField) (d : Dest) : FitsRow.Statement (.andwf f d) := fun _ => by
  cases d
  · exact (and_append_zero 0b0001010#7 0b1111110#7 f).trans rfl
  · exact (and_append_zero 0b0001011#7 0b1111110#7 f).trans rfl
theorem FitsRow.xorwf (f : FileField) (d : Dest) : FitsRow.Statement (.xorwf f d) := fun _ => by
  cases d
  · exact (and_append_zero 0b0001100#7 0b1111110#7 f).trans rfl
  · exact (and_append_zero 0b0001101#7 0b1111110#7 f).trans rfl
theorem FitsRow.addwf (f : FileField) (d : Dest) : FitsRow.Statement (.addwf f d) := fun _ => by
  cases d
  · exact (and_append_zero 0b0001110#7 0b1111110#7 f).trans rfl
  · exact (and_append_zero 0b0001111#7 0b1111110#7 f).trans rfl
theorem FitsRow.movf (f : FileField) (d : Dest) : FitsRow.Statement (.movf f d) := fun _ => by
  cases d
  · exact (and_append_zero 0b0010000#7 0b1111110#7 f).trans rfl
  · exact (and_append_zero 0b0010001#7 0b1111110#7 f).trans rfl
theorem FitsRow.comf (f : FileField) (d : Dest) : FitsRow.Statement (.comf f d) := fun _ => by
  cases d
  · exact (and_append_zero 0b0010010#7 0b1111110#7 f).trans rfl
  · exact (and_append_zero 0b0010011#7 0b1111110#7 f).trans rfl
theorem FitsRow.incf (f : FileField) (d : Dest) : FitsRow.Statement (.incf f d) := fun _ => by
  cases d
  · exact (and_append_zero 0b0010100#7 0b1111110#7 f).trans rfl
  · exact (and_append_zero 0b0010101#7 0b1111110#7 f).trans rfl
theorem FitsRow.decfsz (f : FileField) (d : Dest) : FitsRow.Statement (.decfsz f d) := fun _ => by
  cases d
  · exact (and_append_zero 0b0010110#7 0b1111110#7 f).trans rfl
  · exact (and_append_zero 0b0010111#7 0b1111110#7 f).trans rfl
theorem FitsRow.rrf (f : FileField) (d : Dest) : FitsRow.Statement (.rrf f d) := fun _ => by
  cases d
  · exact (and_append_zero 0b0011000#7 0b1111110#7 f).trans rfl
  · exact (and_append_zero 0b0011001#7 0b1111110#7 f).trans rfl
theorem FitsRow.rlf (f : FileField) (d : Dest) : FitsRow.Statement (.rlf f d) := fun _ => by
  cases d
  · exact (and_append_zero 0b0011010#7 0b1111110#7 f).trans rfl
  · exact (and_append_zero 0b0011011#7 0b1111110#7 f).trans rfl
theorem FitsRow.swapf (f : FileField) (d : Dest) : FitsRow.Statement (.swapf f d) := fun _ => by
  cases d
  · exact (and_append_zero 0b0011100#7 0b1111110#7 f).trans rfl
  · exact (and_append_zero 0b0011101#7 0b1111110#7 f).trans rfl
theorem FitsRow.incfsz (f : FileField) (d : Dest) : FitsRow.Statement (.incfsz f d) := fun _ => by
  cases d
  · exact (and_append_zero 0b0011110#7 0b1111110#7 f).trans rfl
  · exact (and_append_zero 0b0011111#7 0b1111110#7 f).trans rfl
theorem FitsRow.bcf (f : FileField) (b : BitIndex) : FitsRow.Statement (.bcf f b) :=
  fun _ =>
  (and_append_zero (0b0100#4 ++ b) (0b1111#4 ++ 0#3) f).trans
    (congrArg (· ++ 0#7) ((and_append_zero 0b0100#4 0b1111#4 b).trans rfl))
theorem FitsRow.bsf (f : FileField) (b : BitIndex) : FitsRow.Statement (.bsf f b) :=
  fun _ =>
  (and_append_zero (0b0101#4 ++ b) (0b1111#4 ++ 0#3) f).trans
    (congrArg (· ++ 0#7) ((and_append_zero 0b0101#4 0b1111#4 b).trans rfl))
theorem FitsRow.btfsc (f : FileField) (b : BitIndex) : FitsRow.Statement (.btfsc f b) :=
  fun _ =>
  (and_append_zero (0b0110#4 ++ b) (0b1111#4 ++ 0#3) f).trans
    (congrArg (· ++ 0#7) ((and_append_zero 0b0110#4 0b1111#4 b).trans rfl))
theorem FitsRow.btfss (f : FileField) (b : BitIndex) : FitsRow.Statement (.btfss f b) :=
  fun _ =>
  (and_append_zero (0b0111#4 ++ b) (0b1111#4 ++ 0#3) f).trans
    (congrArg (· ++ 0#7) ((and_append_zero 0b0111#4 0b1111#4 b).trans rfl))
theorem FitsRow.call (k : BitVec 11) : FitsRow.Statement (.call k) :=
  fun _ => (and_append_zero 0b100#3 0b111#3 k).trans rfl
theorem FitsRow.goto (k : BitVec 11) : FitsRow.Statement (.goto k) :=
  fun _ => (and_append_zero 0b101#3 0b111#3 k).trans rfl
theorem FitsRow.movlw (k : Byte) : FitsRow.Statement (.movlw k) :=
  fun _ => (and_append_zero 0b110000#6 0b111100#6 k).trans rfl
theorem FitsRow.retlw (k : Byte) : FitsRow.Statement (.retlw k) :=
  fun _ => (and_append_zero 0b110100#6 0b111100#6 k).trans rfl
theorem FitsRow.iorlw (k : Byte) : FitsRow.Statement (.iorlw k) :=
  fun _ => (and_append_zero 0b111000#6 0b111111#6 k).trans rfl
theorem FitsRow.andlw (k : Byte) : FitsRow.Statement (.andlw k) :=
  fun _ => (and_append_zero 0b111001#6 0b111111#6 k).trans rfl
theorem FitsRow.xorlw (k : Byte) : FitsRow.Statement (.xorlw k) :=
  fun _ => (and_append_zero 0b111010#6 0b111111#6 k).trans rfl
theorem FitsRow.sublw (k : Byte) : FitsRow.Statement (.sublw k) :=
  fun _ => (and_append_zero 0b111100#6 0b111110#6 k).trans rfl
theorem FitsRow.addlw (k : Byte) : FitsRow.Statement (.addlw k) :=
  fun _ => (and_append_zero 0b111110#6 0b111110#6 k).trans rfl

end Sys2Proof.Laws
end

