-- ==== Sys2Proof/Laws/Rules.lean ====
section
/-!
SUPPORT. The shared shapes complete on every accessible operand, in the form the statements use: ByteRule and
LiteralRule from a computation and its flags, and the like for the stores and the skips.
-/

namespace Sys2Proof.Machine

/-- Writing flags to `u` is the relation `FlagsSet`. -/
theorem flagsSet_setFlags (u : State) (fl : FlagUpdate) : FlagsSet u (u.setFlags fl) fl.z fl.dc fl.c := by
  refine ⟨rfl, fl.apply_field u.status, ?_, ?_, ?_⟩ <;> simp [State.flagZ, State.flagDC, State.flagC, State.setFlags]

/-- A byte-oriented instruction on an accessible operand (R88, R89). -/
theorem byteOp_completes {f : FileField} {d : Dest} {alu : Byte → AluResult} {s : State}
    (h : accessible s (effAddr s f) = true) :
    ∃ v u, memRead s (effAddr s f) = .ok v ∧
      (d = .w → u = { s with pc := s.pc + 1#13, w := (alu v).value }) ∧
      (d = .f → memWrite { s with pc := s.pc + 1#13 } (effAddr s f) (alu v).flags.writesAny (alu v).value = .ok u) ∧
      byteOp f d alu s = .ok (u.setFlags (alu v).flags) := by
  obtain ⟨v, hv⟩ := memRead_of_accessible h
  cases d with
  | w =>
    refine ⟨v, { s with pc := s.pc + 1#13, w := (alu v).value }, hv, fun _ => rfl, nofun, ?_⟩
    simp only [byteOp, hv, writeDest]
    rfl
  | f =>
    obtain ⟨u, hu⟩ := memWrite_of_accessible (s := s.advance) h (alu v).flags.writesAny (alu v).value
    refine ⟨v, u, hv, nofun, fun _ => hu, ?_⟩
    simp only [byteOp, hv, writeDest, hu]

/-- MOVWF and CLRF on an accessible operand (R88). -/
theorem storeOp_completes {f : FileField} {out : AluResult} {s : State} (h : accessible s (effAddr s f) = true) :
    ∃ u, memWrite { s with pc := s.pc + 1#13 } (effAddr s f) out.flags.writesAny out.value = .ok u ∧
      storeOp f out s = .ok (u.setFlags out.flags) := by
  obtain ⟨u, hu⟩ := memWrite_of_accessible (s := s.advance) h out.flags.writesAny out.value
  exact ⟨u, hu, by simp only [storeOp, hu]⟩

/-- A byte-oriented instruction keeps `ByteRule` once its value and its flags are known. -/
theorem ByteRule.of {mk : FileField → Dest → Instr} {fl : Bool} {result : State → Byte → Byte}
    {z dc c : State → Byte → Option Bool} (alu : State → Byte → AluResult)
    (hexec : ∀ f d s, exec (mk f d) s = finish (byteOp f d (alu s) s))
    (hfl : ∀ s v, (alu s v).flags.writesAny = fl) (hval : ∀ s v, (alu s v).value = result s v)
    (hflags : ∀ s v, (alu s v).flags = ⟨z s v, dc s v, c s v⟩) : ByteRule mk fl result z dc c := by
  intro f d s h
  obtain ⟨v, u, hv, hw, hf, ho⟩ := byteOp_completes (d := d) (alu := alu s) h
  refine ⟨v, u, _, hv, ?_, ?_, by rw [hexec, ho, finish_ok], ?_⟩
  · rw [← hval]; exact hw
  · rw [← hval, ← hfl s v]; exact hf
  · have := flagsSet_setFlags u (alu s v).flags
    rwa [hflags] at this ⊢

/-- A literal instruction keeps `LiteralRule` once its value and its flags are known. -/
theorem LiteralRule.of {mk : Byte → Instr} {result : State → Byte → Byte} {z dc c : State → Byte → Option Bool}
    (alu : State → Byte → AluResult) (hexec : ∀ k s, exec (mk k) s = .next (literalOp (alu s k) s))
    (hval : ∀ s k, (alu s k).value = result s k) (hflags : ∀ s k, (alu s k).flags = ⟨z s k, dc s k, c s k⟩) :
    LiteralRule mk result z dc c := by
  intro k s
  refine ⟨_, hexec k s, ?_⟩
  have := flagsSet_setFlags { s with pc := s.pc + 1#13, w := result s k } (alu s k).flags
  rw [hflags] at this
  rw [literalOp, hval, hflags]
  exact this

end Sys2Proof.Machine
end

