-- ==== Sys2Proof/Laws/Step.lean ====
section
/-!
SUPPORT. What a register write leaves alone, what the environment leaves alone, and the forms of one step.
-/

namespace Sys2Proof.Machine

@[simp] theorem raiseFlags_w (b : Boundary) (s : State) : (raiseFlags b s).w = s.w := by
  unfold raiseFlags; split <;> rfl
@[simp] theorem openBoundary_w (s : State) : (openBoundary s).w = s.w := by
  simp [openBoundary, drawInputs]
@[simp] theorem raiseFlags_pc (b : Boundary) (s : State) : (raiseFlags b s).pc = s.pc := by
  unfold raiseFlags; split <;> rfl
@[simp] theorem openBoundary_pc (s : State) : (openBoundary s).pc = s.pc := by
  simp [openBoundary, drawInputs]
@[simp] theorem raiseFlags_pclath (b : Boundary) (s : State) : (raiseFlags b s).pclath = s.pclath := by
  unfold raiseFlags; split <;> rfl
@[simp] theorem openBoundary_pclath (s : State) : (openBoundary s).pclath = s.pclath := by
  simp [openBoundary, drawInputs]
@[simp] theorem raiseFlags_status (b : Boundary) (s : State) : (raiseFlags b s).status = s.status := by
  unfold raiseFlags; split <;> rfl
@[simp] theorem openBoundary_status (s : State) : (openBoundary s).status = s.status := by
  simp [openBoundary, drawInputs]
@[simp] theorem raiseFlags_fsr (b : Boundary) (s : State) : (raiseFlags b s).fsr = s.fsr := by
  unfold raiseFlags; split <;> rfl
@[simp] theorem openBoundary_fsr (s : State) : (openBoundary s).fsr = s.fsr := by
  simp [openBoundary, drawInputs]
@[simp] theorem raiseFlags_optionReg (b : Boundary) (s : State) : (raiseFlags b s).optionReg = s.optionReg := by
  unfold raiseFlags; split <;> rfl
@[simp] theorem openBoundary_optionReg (s : State) : (openBoundary s).optionReg = s.optionReg := by
  simp [openBoundary, drawInputs]
@[simp] theorem raiseFlags_latA (b : Boundary) (s : State) : (raiseFlags b s).latA = s.latA := by
  unfold raiseFlags; split <;> rfl
@[simp] theorem openBoundary_latA (s : State) : (openBoundary s).latA = s.latA := by
  simp [openBoundary, drawInputs]
@[simp] theorem raiseFlags_latB (b : Boundary) (s : State) : (raiseFlags b s).latB = s.latB := by
  unfold raiseFlags; split <;> rfl
@[simp] theorem openBoundary_latB (s : State) : (openBoundary s).latB = s.latB := by
  simp [openBoundary, drawInputs]
@[simp] theorem raiseFlags_trisA (b : Boundary) (s : State) : (raiseFlags b s).trisA = s.trisA := by
  unfold raiseFlags; split <;> rfl
@[simp] theorem openBoundary_trisA (s : State) : (openBoundary s).trisA = s.trisA := by
  simp [openBoundary, drawInputs]
@[simp] theorem raiseFlags_trisB (b : Boundary) (s : State) : (raiseFlags b s).trisB = s.trisB := by
  unfold raiseFlags; split <;> rfl
@[simp] theorem openBoundary_trisB (s : State) : (openBoundary s).trisB = s.trisB := by
  simp [openBoundary, drawInputs]
@[simp] theorem raiseFlags_eedata (b : Boundary) (s : State) : (raiseFlags b s).eedata = s.eedata := by
  unfold raiseFlags; split <;> rfl
@[simp] theorem openBoundary_eedata (s : State) : (openBoundary s).eedata = s.eedata := by
  simp [openBoundary, drawInputs]
@[simp] theorem raiseFlags_eeadr (b : Boundary) (s : State) : (raiseFlags b s).eeadr = s.eeadr := by
  unfold raiseFlags; split <;> rfl
@[simp] theorem openBoundary_eeadr (s : State) : (openBoundary s).eeadr = s.eeadr := by
  simp [openBoundary, drawInputs]
@[simp] theorem raiseFlags_eeUnlock (b : Boundary) (s : State) : (raiseFlags b s).eeUnlock = s.eeUnlock := by
  unfold raiseFlags; split <;> rfl
@[simp] theorem openBoundary_eeUnlock (s : State) : (openBoundary s).eeUnlock = s.eeUnlock := by
  simp [openBoundary, drawInputs]
@[simp] theorem raiseFlags_data (b : Boundary) (s : State) : (raiseFlags b s).data = s.data := by
  unfold raiseFlags; split <;> rfl
@[simp] theorem openBoundary_data (s : State) : (openBoundary s).data = s.data := by
  simp [openBoundary, drawInputs]
@[simp] theorem raiseFlags_prog (b : Boundary) (s : State) : (raiseFlags b s).prog = s.prog := by
  unfold raiseFlags; split <;> rfl
@[simp] theorem openBoundary_prog (s : State) : (openBoundary s).prog = s.prog := by
  simp [openBoundary, drawInputs]
@[simp] theorem raiseFlags_stack (b : Boundary) (s : State) : (raiseFlags b s).stack = s.stack := by
  unfold raiseFlags; split <;> rfl
@[simp] theorem openBoundary_stack (s : State) : (openBoundary s).stack = s.stack := by
  simp [openBoundary, drawInputs]
@[simp] theorem raiseFlags_sleeping (b : Boundary) (s : State) : (raiseFlags b s).sleeping = s.sleeping := by
  unfold raiseFlags; split <;> rfl
@[simp] theorem openBoundary_sleeping (s : State) : (openBoundary s).sleeping = s.sleeping := by
  simp [openBoundary, drawInputs]
@[simp] theorem raiseFlags_deferred (b : Boundary) (s : State) : (raiseFlags b s).deferred = s.deferred := by
  unfold raiseFlags; split <;> rfl
@[simp] theorem openBoundary_deferred (s : State) : (openBoundary s).deferred = s.deferred := by
  simp [openBoundary, drawInputs]
@[simp] theorem raiseFlags_cfg (b : Boundary) (s : State) : (raiseFlags b s).cfg = s.cfg := by
  unfold raiseFlags; split <;> rfl
@[simp] theorem openBoundary_cfg (s : State) : (openBoundary s).cfg = s.cfg := by
  simp [openBoundary, drawInputs]

/-- The schedule moves on. -/
@[simp] theorem openBoundary_env (s : State) : (openBoundary s).env = s.env.tail := rfl

/-- The draws move on. -/
@[simp] theorem openBoundary_tick (s : State) : (openBoundary s).tick = s.tick + 1 := rfl

/-- INTCON after the boundary (R240). -/
@[simp] theorem openBoundary_intcon (s : State) :
    (openBoundary s).intcon =
      s.intcon ||| flagBit 8 2 s.boundary.t0Overflow ||| flagBit 8 1 s.boundary.intTrigger |||
        flagBit 8 0 s.boundary.rbChange := by
  simp only [openBoundary, drawInputs, raiseFlags]; split <;> rfl

/-- EECON1 after the boundary (R240): changed only by the end of an EEPROM write. -/
@[simp] theorem openBoundary_eecon1 (s : State) :
    (openBoundary s).eecon1 =
      if s.boundary.eeComplete && s.cfg.eepromDevice then (completeEepromWrite s).eecon1 else s.eecon1 := by
  simp only [openBoundary, drawInputs, raiseFlags]; split <;> rfl

/-- The EEPROM after the boundary. -/
@[simp] theorem openBoundary_eeprom (s : State) :
    (openBoundary s).eeprom =
      if s.boundary.eeComplete && s.cfg.eepromDevice then (completeEepromWrite s).eeprom else s.eeprom := by
  simp only [openBoundary, drawInputs, raiseFlags]; split <;> rfl

/-- The EEPROM write in progress after the boundary. -/
@[simp] theorem openBoundary_eePending (s : State) :
    (openBoundary s).eePending =
      if s.boundary.eeComplete && s.cfg.eepromDevice then none else s.eePending := by
  simp only [openBoundary, drawInputs, raiseFlags]; split <;> rfl

/-- What a register write leaves alone, register by register (R87). -/
structure WriteFrame (s t : State) (reg : FileReg) : Prop where
  w : t.w = s.w
  pc : reg ≠ .pcl → t.pc = s.pc
  pclath : reg ≠ .pclath → t.pclath = s.pclath
  status : reg ≠ .status → t.status = s.status
  fsr : reg ≠ .fsr → t.fsr = s.fsr
  intcon : reg ≠ .intcon → t.intcon = s.intcon
  optionReg : reg ≠ .option → t.optionReg = s.optionReg
  tmr0 : reg ≠ .tmr0 → t.tmr0 = s.tmr0
  tmr0Pre : t.tmr0Pre = s.tmr0Pre
  latA : reg ≠ .portA → t.latA = s.latA
  latB : reg ≠ .portB → t.latB = s.latB
  trisA : reg ≠ .trisA → t.trisA = s.trisA
  trisB : reg ≠ .trisB → t.trisB = s.trisB
  pinsA : t.pinsA = s.pinsA
  pinsB : t.pinsB = s.pinsB
  eedata : reg ≠ .eedata → reg ≠ .eecon1 → t.eedata = s.eedata
  eeadr : reg ≠ .eeadr → t.eeadr = s.eeadr
  eecon1 : reg ≠ .eecon1 → t.eecon1 = s.eecon1
  eeUnlock : reg ≠ .eecon1 → reg ≠ .eecon2 → t.eeUnlock = s.eeUnlock
  eePending : reg ≠ .eecon1 → t.eePending = s.eePending
  data : (∀ r, reg ≠ .data r) → t.data = s.data
  eeprom : t.eeprom = s.eeprom
  prog : t.prog = s.prog
  stack : t.stack = s.stack
  sleeping : t.sleeping = s.sleeping
  wdt : t.wdt = s.wdt
  wdtPre : t.wdtPre = s.wdtPre
  deferred : t.deferred = s.deferred
  env : t.env = s.env
  tick : t.tick = s.tick
  cfg : t.cfg = s.cfg

/-- Every register write that answers has that frame. -/
theorem writeReg_frame {s t : State} {fl : Bool} {v : Byte} {reg : FileReg} (h : writeReg s fl v reg = .ok t) :
    WriteFrame s t reg := by
  cases reg
  case eecon1 =>
    simp only [writeReg] at h
    split at h
    · cases h; constructor <;> simp [writeEecon1]
    · cases h
  case eecon2 =>
    simp only [writeReg] at h
    split at h
    · cases h; constructor <;> simp [writeEecon2]
    · cases h
  all_goals (simp only [writeReg] at h; cases h; constructor <;> simp)

/-- The bits that a store to STATUS leaves alone: /TO and /PD (R30). -/
theorem writeReg_toPd {s t : State} {fl : Bool} {v : Byte} {reg : FileReg} (h : writeReg s fl v reg = .ok t) :
    t.toN = s.toN ∧ t.pdN = s.pdN := by
  by_cases hs : reg = .status
  · subst hs
    simp only [writeReg] at h
    cases h
    cases fl <;> simp [State.toN, State.pdN, mergeStatus, BitVec.getElem_and, BitVec.getElem_or]
  · rw [State.toN, State.pdN, (writeReg_frame h).status hs]; exact ⟨rfl, rfl⟩

/-- What each kind of step says of the boundary and the state after it (R10, R236). -/
theorem stepKind_spec (b : Boundary) (s : State) :
    match stepKind b s with
    | .reset .mclr => b.line = .mclr
    | .reset .watchdog => b.line ≠ .mclr ∧ s.sleeping = false ∧ watchdogFires b s = true
    | .idle => b.line ≠ .mclr ∧ s.sleeping = true ∧ watchdogFires b s = false ∧ wakeFlags s = false
    | .wake true => b.line ≠ .mclr ∧ s.sleeping = true ∧ watchdogFires b s = true
    | .wake false => b.line ≠ .mclr ∧ s.sleeping = true ∧ watchdogFires b s = false ∧ wakeFlags s = true
    | .interrupt => b.line ≠ .mclr ∧ s.sleeping = false ∧ watchdogFires b s = false ∧ intCond s = true ∧
        ¬(b.deferInt = true ∧ s.deferred < s.cfg.intDeferMax)
    | .runDeferred => b.line ≠ .mclr ∧ s.sleeping = false ∧ watchdogFires b s = false ∧ intCond s = true ∧
        b.deferInt = true ∧ s.deferred < s.cfg.intDeferMax
    | .run => b.line ≠ .mclr ∧ s.sleeping = false ∧ watchdogFires b s = false ∧ intCond s = false := by
  unfold stepKind
  by_cases hm : b.line = .mclr
  · rw [if_pos hm]; exact hm
  rw [if_neg hm]
  cases hs : s.sleeping <;> cases hw : watchdogFires b s <;> cases hf : wakeFlags s <;> cases hi : intCond s <;>
    cases hd : b.deferInt <;> by_cases hl : s.deferred < s.cfg.intDeferMax <;>
    (simp only [hl, decide_false, decide_true, Bool.and_false, Bool.and_true]; simp_all)

/-- The core is awake in every step that enters the interrupt or runs an instruction without a wake-up. -/
theorem awake_of_stepKind {b : Boundary} {s : State}
    (h : stepKind b s = .interrupt ∨ stepKind b s = .runDeferred ∨ stepKind b s = .run) : s.sleeping = false := by
  have hs := stepKind_spec b s
  rcases h with h | h | h <;> rw [h] at hs <;> exact hs.2.1

/-- The form of one step, with the state it starts the instruction in (R10). -/
inductive StepCase (s : State) : State → Prop where
  /-- Reset. -/
  | reset (cause : ResetCause) (kind : stepKind s.boundary (openBoundary s) = .reset cause) :
      StepCase s (resetAction cause (openBoundary s))
  /-- Asleep. -/
  | idle (kind : stepKind s.boundary (openBoundary s) = .idle) : StepCase s (openBoundary s)
  /-- The interrupt entry. -/
  | interrupt (t : State) (kind : stepKind s.boundary (openBoundary s) = .interrupt)
      (takes : takeInterrupt (openBoundary s).endDeferral = .ok t) : StepCase s t
  /-- An instruction, after a wake-up. -/
  | wake (byWatchdog : Bool) (word : InstrWord) (i : Instr) (t : State)
      (kind : stepKind s.boundary (openBoundary s) = .wake byWatchdog)
      (fetched : s.prog.read s.pc.toNat = some word) (decodes : decode word = .ok i)
      (runs : exec i (wakeUp byWatchdog (openBoundary s)) = .next t) : StepCase s t
  /-- An instruction while the interrupt is put off. -/
  | runDeferred (word : InstrWord) (i : Instr) (t : State)
      (kind : stepKind s.boundary (openBoundary s) = .runDeferred)
      (fetched : s.prog.read s.pc.toNat = some word) (decodes : decode word = .ok i)
      (runs : exec i (openBoundary s).countDeferral = .next t) : StepCase s t
  /-- An instruction. -/
  | run (word : InstrWord) (i : Instr) (t : State)
      (kind : stepKind s.boundary (openBoundary s) = .run)
      (fetched : s.prog.read s.pc.toNat = some word) (decodes : decode word = .ok i)
      (runs : exec i (openBoundary s).endDeferral = .next t) : StepCase s t

/-- A fetch and execution that answers: the word, the instruction, its meaning. -/
theorem fetchExec_cases {s t : State} (h : fetchExec s = .next t) :
    ∃ word i, s.prog.read s.pc.toNat = some word ∧ decode word = .ok i ∧ exec i s = .next t := by
  unfold fetchExec at h
  split at h
  · cases h
  · next i hi =>
    unfold fetch at hi
    split at hi
    · cases hi
    · next word hw =>
      split at hi
      · next j hj => cases hi; exact ⟨word, i, hw, hj, h⟩
      · cases hi

/-- Every step that gives a next state has one of the forms. -/
theorem step_cases {s t : State} (h : step s = .next t) : StepCase s t := by
  unfold step coreStep at h
  split at h
  · next cause hk => cases h; exact .reset cause hk
  · next hk => cases h; exact .idle hk
  · next byW hk =>
    obtain ⟨word, i, hw, hd, he⟩ := fetchExec_cases h
    exact .wake byW word i t hk (by simpa [wakeUp] using hw) hd he
  · next hk => exact .interrupt t hk (finish_next.mp h)
  · next hk =>
    obtain ⟨word, i, hw, hd, he⟩ := fetchExec_cases h
    exact .runDeferred word i t hk (by simpa [State.countDeferral] using hw) hd he
  · next hk =>
    obtain ⟨word, i, hw, hd, he⟩ := fetchExec_cases h
    exact .run word i t hk (by simpa [State.endDeferral] using hw) hd he

/-- A run of `k + 1` steps of any machine is a step and a run of `k` steps. -/
theorem run_succ (M : Host.Core) {k : Nat} {s t : M.State} (h : M.run (k + 1) s = .next t) :
    ∃ u, M.step s = .next u ∧ M.run k u = .next t := by
  unfold Host.Core.run at h
  split at h
  · next u hu => exact ⟨u, hu, h⟩
  · cases h
  · cases h

end Sys2Proof.Machine
end

