-- ==== Sys2Proof/Tests/Slice0.lean ====
section
/-!
SUPPORT. The model's own tests. Expected results are the vectors of 95_test_vectors.md (named V-… beside each) or hand
calculation from the rule named. The witnesses at the end meet the hypotheses of the statements in
Certificates/Slice0/Obligations.lean.
-/

namespace Sys2Proof.Tests

open Sys2Proof Sys2Proof.Machine

/-- The default start state of 95_test_vectors.md section 2 with W, STATUS and the byte at 0x20 given. -/
def start (w status byte : Byte) : State :=
  { State.reset with pc := 0x0010#13, fsr := 0x20#8, w := w, status := status, data := Memory.write [] 0x20 byte }

/-- W, pc, STATUS and the byte at 0x20 of the next state. -/
def seen (o : Host.Outcome State Fault Refusal) : Option (Byte × ProgAddr × Byte × Byte) :=
  match o with
  | .next t => some (t.w, t.pc, t.status, t.data.read 0x20)
  | _ => none

/-- One thing of the next state. -/
def view {α : Type} (f : State → α) (o : Host.Outcome State Fault Refusal) : Option α :=
  match o with
  | .next t => some (f t)
  | _ => none

/-- The name of the refusal. -/
def refusal (o : Host.Outcome State Fault Refusal) : Option Refusal :=
  match o with
  | .refused r => some r
  | _ => none

/-- The instruction a word decodes to, if any. -/
def decoded (w : InstrWord) : Option Instr :=
  match decode w with
  | .ok i => some i
  | .error _ => none

/-! ### WellFormed -/

/-- TRIS 4 is no instruction: the word 0x0064 is CLRWDT (R129). -/
theorem test_tris_four_ill_formed : (Instr.tris 4#3).wellFormed = false := by decide
theorem test_tris_zero_ill_formed : (Instr.tris 0#3).wellFormed = false := by decide
theorem test_tris_five_well_formed : (Instr.tris 5#3).wellFormed = true := by decide

/-! ### Decode: words written out from the encodings of R125 -/

theorem test_decode_system :
    decoded 0b00000000000000#14 = some .nop ∧ decoded 0b00000001100000#14 = some .nop ∧
    decoded 0b00000000001000#14 = some .ret ∧ decoded 0b00000000001001#14 = some .retfie ∧
    decoded 0b00000001100011#14 = some .sleep ∧ decoded 0b00000001100100#14 = some .clrwdt := by decide
theorem test_decode_option_tris :
    decoded 0b00000001100010#14 = some .option ∧ decoded 0b00000001100101#14 = some (.tris 5#3) ∧
    decoded 0b00000001100110#14 = some (.tris 6#3) ∧ decoded 0b00000001100111#14 = some (.tris 7#3) := by decide
theorem test_decode_store_clear :
    decoded 0b00000010100001#14 = some (.movwf 0x21#7) ∧ decoded 0b00000100000000#14 = some .clrw ∧
    decoded 0b00000101111111#14 = some .clrw ∧ decoded 0b00000110100001#14 = some (.clrf 0x21#7) := by decide
theorem test_decode_arith_logic_file :
    decoded 0b00001010100001#14 = some (.subwf 0x21#7 .f) ∧ decoded 0b00010000100001#14 = some (.iorwf 0x21#7 .w) ∧
    decoded 0b00010110100001#14 = some (.andwf 0x21#7 .f) ∧ decoded 0b00011000100001#14 = some (.xorwf 0x21#7 .w) ∧
    decoded 0b00011110100001#14 = some (.addwf 0x21#7 .f) := by decide
theorem test_decode_move_count_file :
    decoded 0b00001100100001#14 = some (.decf 0x21#7 .w) ∧ decoded 0b00100010100001#14 = some (.movf 0x21#7 .f) ∧
    decoded 0b00100100100001#14 = some (.comf 0x21#7 .w) ∧ decoded 0b00101010100001#14 = some (.incf 0x21#7 .f) ∧
    decoded 0b00101100100001#14 = some (.decfsz 0x21#7 .w) ∧
    decoded 0b00111110100001#14 = some (.incfsz 0x21#7 .f) := by decide
theorem test_decode_rotate_swap :
    decoded 0b00110010100001#14 = some (.rrf 0x21#7 .f) ∧ decoded 0b00110100100001#14 = some (.rlf 0x21#7 .w) ∧
    decoded 0b00111010100001#14 = some (.swapf 0x21#7 .f) := by decide
theorem test_decode_bit :
    decoded 0b01001100100001#14 = some (.bcf 0x21#7 6#3) ∧ decoded 0b01011100100001#14 = some (.bsf 0x21#7 6#3) ∧
    decoded 0b01101100100001#14 = some (.btfsc 0x21#7 6#3) ∧
    decoded 0b01111100100001#14 = some (.btfss 0x21#7 6#3) := by decide
theorem test_decode_jump :
    decoded 0b10010100100011#14 = some (.call 0x523#11) ∧
    decoded 0b10101100100011#14 = some (.goto 0x323#11) := by decide
theorem test_decode_literal :
    decoded 0b11001110000001#14 = some (.movlw 0x81#8) ∧ decoded 0b11010110000001#14 = some (.retlw 0x81#8) ∧
    decoded 0b11100010000001#14 = some (.iorlw 0x81#8) ∧ decoded 0b11100110000001#14 = some (.andlw 0x81#8) ∧
    decoded 0b11101010000001#14 = some (.xorlw 0x81#8) ∧ decoded 0b11110110000001#14 = some (.sublw 0x81#8) ∧
    decoded 0b11111010000001#14 = some (.addlw 0x81#8) := by decide
/-- V-SP18 to V-SP21, V-OT5. -/
theorem test_decode_unassigned :
    decoded 0x0001#14 = none ∧ decoded 0x3B00#14 = none ∧ decoded 0x3BFF#14 = none ∧ decoded 0x007F#14 = none ∧
    decoded 0x0061#14 = none := by decide

/-! ### Arithmetic and logic -/

/-- V-AL2. -/
theorem test_addwf_wraps : seen (exec (.addwf 0x20#7 .f) (start 0x01 0x18 0xFF)) = some (0x01, 0x0011, 0x1F, 0x00) := by
  decide
/-- V-SP3: the carry out of PCL does not reach pc bit 8. -/
theorem test_addwf_pcl : seen (exec (.addwf 0x02#7 .f) { start 0x02 0x18 0x00 with pc := 0x00FE#13 }) =
    some (0x02, 0x0001, 0x1B, 0x00) := by decide
/-- V-AL15. -/
theorem test_subwf_borrow : seen (exec (.subwf 0x20#7 .f) (start 0x05 0x18 0x03)) = some (0x05, 0x0011, 0x18, 0xFE) := by
  decide
/-- V-AL25. -/
theorem test_subwf_to_w : seen (exec (.subwf 0x20#7 .w) (start 0x03 0x18 0x05)) = some (0x02, 0x0011, 0x1B, 0x05) := by
  decide
/-- V-AL35, at 0x20. -/
theorem test_iorwf : seen (exec (.iorwf 0x20#7 .f) (start 0x00 0x1B 0x00)) = some (0x00, 0x0011, 0x1F, 0x00) := by decide
/-- V-AL37, at 0x20. -/
theorem test_andwf : seen (exec (.andwf 0x20#7 .w) (start 0xFF 0x1C 0xA5)) = some (0xA5, 0x0011, 0x18, 0xA5) := by decide
/-- V-AL39, at 0x20. -/
theorem test_xorwf : seen (exec (.xorwf 0x20#7 .f) (start 0xFF 0x18 0x0F)) = some (0xFF, 0x0011, 0x18, 0xF0) := by decide
/-- V-AL12. -/
theorem test_addlw : seen (exec (.addlw 0xFF#8) (start 0xFF 0x18 0x00)) = some (0xFE, 0x0011, 0x1B, 0x00) := by decide
/-- V-AL31. -/
theorem test_sublw : seen (exec (.sublw 0x10#8) (start 0x01 0x18 0x00)) = some (0x0F, 0x0011, 0x19, 0x00) := by decide
/-- V-AL41. -/
theorem test_iorlw : seen (exec (.iorlw 0x81#8) (start 0x18 0x18 0x00)) = some (0x99, 0x0011, 0x18, 0x00) := by decide
/-- V-AL42. -/
theorem test_andlw : seen (exec (.andlw 0x0F#8) (start 0xA5 0x18 0x00)) = some (0x05, 0x0011, 0x18, 0x00) := by decide
/-- V-AL44. -/
theorem test_xorlw : seen (exec (.xorlw 0x3C#8) (start 0x3C 0x18 0x00)) = some (0x00, 0x0011, 0x1C, 0x00) := by decide

/-! ### Increment, decrement, rotate, swap -/

/-- V-ID1. -/
theorem test_decf_wraps : seen (exec (.decf 0x20#7 .f) (start 0x00 0x1B 0x00)) = some (0x00, 0x0011, 0x1B, 0xFF) := by
  decide
/-- V-ID5. -/
theorem test_incf_to_w : seen (exec (.incf 0x20#7 .w) (start 0x00 0x18 0xFF)) = some (0x00, 0x0011, 0x1C, 0xFF) := by
  decide
/-- V-RS1. -/
theorem test_rrf : seen (exec (.rrf 0x20#7 .f) (start 0x00 0x19 0x02)) = some (0x00, 0x0011, 0x18, 0x81) := by decide
/-- V-SP9: destination STATUS. -/
theorem test_rrf_status : seen (exec (.rrf 0x03#7 .f) (start 0x00 0x19 0x00)) = some (0x00, 0x0011, 0x99, 0x00) := by
  decide
/-- V-RS6. -/
theorem test_rlf : seen (exec (.rlf 0x20#7 .w) (start 0x00 0x19 0x40)) = some (0x81, 0x0011, 0x18, 0x40) := by decide
/-- V-RS8. -/
theorem test_swapf : seen (exec (.swapf 0x20#7 .f) (start 0x00 0x1F 0x0F)) = some (0x00, 0x0011, 0x1F, 0xF0) := by decide
/-- V-SP23: destination STATUS takes Z, DC and C from the result. -/
theorem test_swapf_status : seen (exec (.swapf 0x03#7 .f) (start 0x00 0x1D 0x00)) = some (0x00, 0x0011, 0xD9, 0x00) := by
  decide

/-! ### Bits, clear, complement -/

/-- V-BM1. -/
theorem test_bcf : seen (exec (.bcf 0x20#7 7#3) (start 0x00 0x18 0xFF)) = some (0x00, 0x0011, 0x18, 0x7F) := by decide
/-- V-BM7: /TO is not writable. -/
theorem test_bcf_to : seen (exec (.bcf 0x03#7 4#3) (start 0x00 0x1F 0x00)) = some (0x00, 0x0011, 0x1F, 0x00) := by decide
/-- V-BM5. -/
theorem test_bsf_bank : seen (exec (.bsf 0x03#7 5#3) (start 0x00 0x1F 0x00)) = some (0x00, 0x0011, 0x3F, 0x00) := by decide
/-- V-BM11: the pins are read, the latch is written. -/
theorem test_bsf_port :
    view (·.latB) (exec (.bsf 0x06#7 0#3) { start 0x00 0x18 0x00 with pinsB := 0xA0#8 }) = some 0xA1#8 := by decide
/-- V-CC1. -/
theorem test_clrw : seen (exec .clrw (start 0x37 0x18 0x00)) = some (0x00, 0x0011, 0x1C, 0x00) := by decide
/-- V-CC5: destination STATUS. -/
theorem test_clrf_status : seen (exec (.clrf 0x03#7) (start 0x00 0xB9 0x00)) = some (0x00, 0x0011, 0x1D, 0x00) := by decide
/-- V-CC6, through FSR = 0x20. -/
theorem test_clrf_indirect : seen (exec (.clrf 0x00#7) (start 0x00 0x18 0x55)) = some (0x00, 0x0011, 0x1C, 0x00) := by
  decide
/-- V-CC9. -/
theorem test_comf : seen (exec (.comf 0x20#7 .f) (start 0x00 0x18 0xA5)) = some (0x00, 0x0011, 0x18, 0x5A) := by decide

/-! ### Load, store, OPTION, TRIS -/

/-- V-LS13: the same byte in bank 1. -/
theorem test_movwf_bank1 : seen (exec (.movwf 0x20#7) (start 0x66 0x38 0x00)) = some (0x66, 0x0011, 0x38, 0x66) := by
  decide
/-- V-SP7: bits 4 and 3 of W are ignored. -/
theorem test_movwf_status : seen (exec (.movwf 0x03#7) (start 0xA7 0x18 0x00)) = some (0xA7, 0x0011, 0xBF, 0x00) := by
  decide
/-- V-LS21: W gets the old Z. -/
theorem test_movf_status : seen (exec (.movf 0x03#7 .w) (start 0x00 0x1C 0x00)) = some (0x1C, 0x0011, 0x18, 0x00) := by
  decide
/-- V-SP5: PCL reads as the low byte of pc + 1. -/
theorem test_movf_pcl : seen (exec (.movf 0x02#7 .w) { start 0x77 0x18 0x00 with pc := 0x01FF#13 }) =
    some (0x00, 0x0200, 0x1C, 0x00) := by decide
/-- V-LS4. -/
theorem test_movlw : seen (exec (.movlw 0x00#8) (start 0x77 0x18 0x00)) = some (0x00, 0x0011, 0x18, 0x00) := by decide
/-- V-LS6. -/
theorem test_retlw : view (fun t => (t.w, t.pc, t.stack))
    (exec (.retlw 0x07#8) { start 0x00 0x18 0x00 with stack := [0x0011#13, 0x0200#13] }) =
      some (0x07#8, 0x0011#13, [0x0200#13]) := by decide
/-- V-OT1. -/
theorem test_option : view (·.optionReg) (exec .option (start 0x07 0x18 0x00)) = some 0x07#8 := by decide
/-- V-OT3: the bank bits play no part. -/
theorem test_tris_b : view (·.trisB) (exec (.tris 6#3) (start 0xF0 0x78 0x00)) = some 0xF0#8 := by decide
/-- V-OT4. -/
theorem test_tris_seven : refusal (exec (.tris 7#3) (start 0x00 0x18 0x00)) = some .unlistedFileAddress := by decide

/-! ### Jumps and system -/

theorem test_nop : seen (exec .nop (start 0x00 0x18 0x00)) = some (0x00, 0x0011, 0x18, 0x00) := by decide
/-- V-JS5. -/
theorem test_return : view (fun t => (t.pc, t.stack))
    (exec .ret { start 0x00 0x18 0x00 with stack := [0x0123#13] }) = some (0x0123#13, []) := by decide
/-- V-JS7. -/
theorem test_retfie : view (fun t => (t.pc, t.intcon))
    (exec .retfie { start 0x00 0x18 0x00 with intcon := 0x20#8, stack := [0x0042#13] }) =
      some (0x0042#13, 0xA0#8) := by decide
/-- V-JS8. -/
theorem test_sleep : view (fun t => (t.status, t.sleeping)) (exec .sleep (start 0x00 0x1F 0x00)) = some (0x17#8, true) := by
  decide
/-- V-JS9. -/
theorem test_clrwdt : seen (exec .clrwdt (start 0x00 0x07 0x00)) = some (0x00, 0x0011, 0x1F, 0x00) := by decide
/-- V-JS11. -/
theorem test_call_page : view (fun t => (t.pc, t.stack))
    (exec (.call 0x123#11) { start 0x00 0x18 0x00 with pclath := 0x18#5 }) = some (0x1923#13, [0x0011#13]) := by decide
/-- V-JS12: the return address wraps. -/
theorem test_call_wraps : view (fun t => (t.pc, t.stack))
    (exec (.call 0x7FF#11) { start 0x00 0x18 0x00 with pc := 0x1FFF#13 }) = some (0x07FF#13, [0x0000#13]) := by decide
/-- V-JS15: PCLATH bits 2..0 are ignored. -/
theorem test_goto : view (·.pc) (exec (.goto 0x005#11) { start 0x00 0x18 0x00 with pclath := 0x07#5 }) =
    some 0x0005#13 := by decide

/-! ### Skips -/

/-- V-SK1. -/
theorem test_decfsz_skips : seen (exec (.decfsz 0x20#7 .f) (start 0x00 0x18 0x01)) = some (0x00, 0x0012, 0x18, 0x00) := by
  decide
/-- V-SK17. -/
theorem test_decfsz_pcl : refusal (exec (.decfsz 0x02#7 .f) (start 0x00 0x18 0x00)) = some .skipWithPclDestination := by
  decide
/-- V-SK14. -/
theorem test_incfsz_to_w : seen (exec (.incfsz 0x20#7 .w) (start 0x55 0x18 0xFF)) = some (0x00, 0x0012, 0x18, 0xFF) := by
  decide
/-- V-SK11. -/
theorem test_btfsc : seen (exec (.btfsc 0x20#7 7#3) (start 0x00 0x18 0x7F)) = some (0x00, 0x0012, 0x18, 0x7F) := by decide
/-- V-SK5: a set bit other than bit 0 skips. -/
theorem test_btfss : seen (exec (.btfss 0x20#7 7#3) (start 0x00 0x18 0x80)) = some (0x00, 0x0012, 0x18, 0x80) := by decide
/-- V-SK15: pc + 2 wraps. -/
theorem test_btfss_wraps : view (·.pc) (exec (.btfss 0x03#7 3#3) { start 0x00 0x18 0x00 with pc := 0x1FFE#13 }) =
    some 0x0000#13 := by decide

/-! ### The step: interrupt, sleep, reset, EEPROM -/

/-- V-IN6: EEIF is EECON1 bit 4. -/
theorem test_interrupt_eeif : view (fun t => (t.pc, t.intcon, t.stack))
    (step { start 0x00 0x18 0x00 with pc := 0x0123#13, intcon := 0xC0#8, eecon1 := 0b10000#5 }) =
      some (0x0004#13, 0x40#8, [0x0123#13]) := by decide
/-- V-IN8, step 2: a flag raised at the boundary. -/
theorem test_interrupt_raised : view (fun t => (t.pc, t.intcon, t.stack))
    (step { start 0x00 0x18 0x00 with pc := 0x0022#13, intcon := 0xA0#8,
                                      env := [{ Boundary.quiet with t0Overflow := true }] }) =
      some (0x0004#13, 0x24#8, [0x0022#13]) := by decide
/-- V-SL3: T0IF does not wake the core. -/
theorem test_sleep_ignores_t0if : view (fun t => (t.pc, t.intcon, t.sleeping))
    (step { start 0x00 0x17 0x00 with sleeping := true, intcon := 0xA0#8,
                                      env := [{ Boundary.quiet with t0Overflow := true }] }) =
      some (0x0010#13, 0xA4#8, true) := by decide
/-- V-SL4, step 2: the watchdog wakes the core, /TO <- 0. -/
theorem test_watchdog_wakes : view (fun t => (t.w, t.pc, t.status, t.sleeping))
    (step ({ start 0x00 0x17 0x00 with sleeping := true, cfg := { Config.standard with wdtEnabled := true },
                                       env := [{ Boundary.quiet with line := .wdtTimeout }] }.withFetchWord 14 0x3001)) =
      some (0x01#8, 0x0011#13, 0x07#8, false) := by decide
/-- R271. -/
theorem test_mclr : view (fun t => (t.w, t.pc, t.status, t.optionReg))
    (step { start 0x5A 0xE7 0x00 with optionReg := 0x00#8, env := [{ Boundary.quiet with line := .mclr }] }) =
      some (0x5A#8, 0x0000#13, 0x1F#8, 0xFF#8) := by decide
/-- From reset, a word placed by `withFetchWord` is the first instruction (log 8). -/
theorem test_reset_runs_placed_word : view (fun t => (t.w, t.pc)) (step (State.reset.withFetchWord 14 0x30AB)) =
    some (0xAB#8, 0x0001#13) := by decide
/-- R40 with the device: WREN and the unlocked WR start a write, and its end raises EEIF (log 13). -/
theorem test_eeprom_write :
    (raiseFlags { Boundary.quiet with eeComplete := true }
      (writeEecon1 { State.reset with cfg := { Config.standard with eepromDevice := true }, eecon1 := 0b00100#5,
                                      eeUnlock := .unlocked, eeadr := 0x3F#6, eedata := 0x5A#8 } 0x06#8)).eeprom.read 0x3F =
      0x5A#8 := by decide

/-! ### Witnesses: the hypotheses of the statements are met -/

/-- A state with the EEPROM device. -/
def withDevice (eecon1 : BitVec 5) : State :=
  { start 0x00 0x18 0x00 with cfg := { Config.standard with eepromDevice := true }, eecon1 := eecon1 }

/-- A state at whose `pc` the word `MOVLW 0x01` stands. -/
def atMovlw : State := (start 0x00 0x18 0x00).withFetchWord 14 0x3001

/-- The same state with something else of it changed is still at that word. -/
theorem atMovlw_fetch : atMovlw.prog.read atMovlw.pc.toNat = some 0x3001#14 := by decide

theorem witness_DecodeEncodeRoundTrip :
    (Instr.tris 5#3).wellFormed = true ∧ (Instr.tris 7#3).wellFormed = true ∧
    (Instr.addwf 0x7F#7 .f).wellFormed = true := by decide
/-- Each range at its ends, and its neighbours outside; and a program that holds such a word. -/
theorem witness_UnassignedWordsAreExactlyTheListed :
    (decoded 0x0007#14 = none ∧ decoded 0x0008#14 ≠ none ∧ decoded 0x000A#14 = none ∧ decoded 0x001F#14 = none ∧
      decoded 0x0020#14 ≠ none ∧ decoded 0x0021#14 = none ∧ decoded 0x003F#14 = none ∧ decoded 0x0041#14 = none ∧
      decoded 0x005F#14 = none ∧ decoded 0x0062#14 ≠ none ∧ decoded 0x0067#14 ≠ none ∧ decoded 0x0068#14 = none ∧
      decoded 0x3AFF#14 ≠ none ∧ decoded 0x3C00#14 ≠ none) ∧
    (State.reset.withFetchWord 14 0x3B00).prog.read State.reset.pc.toNat = some 0x3B00#14 := by decide
theorem witness_StepRunsTheDecodedInstruction :
    Awake atMovlw.boundary (openBoundary atMovlw) ∧
    ¬((openBoundary atMovlw).intcon.getLsbD 7 = true ∧ SourcePending (openBoundary atMovlw)) ∧
    atMovlw.prog.read atMovlw.pc.toNat = some 0x3001#14 ∧ decode 0x3001#14 = .ok (.movlw 0x01#8) :=
  ⟨⟨rfl, by decide, by decide⟩, fun h => absurd h.1 (by decide), rfl, rfl⟩
theorem witness_FetchOutsideProgramIsRefused : State.reset.prog.read State.reset.pc.toNat = none := by decide
theorem witness_EffectiveAddressFollowsTheBankBits :
    (effAddr (start 0x00 0xFF 0x00) 0x7F#7).toNat = 0x1FF ∧ (effAddr (start 0x00 0xFF 0x00) 0x00#7).toNat = 0x120 ∧
    (effAddr (start 0x00 0x38 0x00) 0x01#7).toNat = 0x081 := by decide
/-- One address of each clause, at the ends of its range: bit 8, each register, the unlisted and the data ranges. -/
theorem witness_MemReadReturnsEveryRegister :
    State.reset.cfg.dataRanges = [(0x20, 0x6F), (0x70, 0x7F)] ∧ State.reset.cfg.eepromDevice = false ∧
    memRead State.reset 0x100#9 = .error .bankBit8 ∧ memRead State.reset 0x1FF#9 = .error .bankBit8 ∧
    memRead State.reset 0x080#9 = .ok 0x00#8 ∧ memRead State.reset 0x081#9 = .ok 0xFF#8 ∧
    memRead State.reset 0x002#9 = .ok 0x01#8 ∧ memRead State.reset 0x083#9 = .ok 0x1F#8 ∧
    memRead State.reset 0x004#9 = .ok 0x00#8 ∧
    memRead State.reset 0x085#9 = .ok 0xFF#8 ∧ memRead State.reset 0x086#9 = .ok 0xFF#8 ∧
    memRead State.reset 0x08A#9 = .ok 0x00#8 ∧ memRead State.reset 0x007#9 = .error .unlistedFileAddress ∧ memRead State.reset 0x08B#9 = .ok 0x00#8 ∧
    memRead State.reset 0x00C#9 = .error .unlistedFileAddress ∧
    memRead State.reset 0x09F#9 = .error .unlistedFileAddress ∧
    memRead State.reset 0x020#9 = .ok 0x00#8 ∧ memRead State.reset 0x0FF#9 = .ok 0x00#8 ∧
    memRead State.reset 0x088#9 = .error .eepromControl ∧ memRead State.reset 0x009#9 = .ok 0x00#8 :=
  ⟨rfl, rfl, rfl, rfl, rfl, rfl, rfl, rfl, rfl, rfl, rfl, rfl, rfl, rfl, rfl, rfl, rfl, rfl, rfl, rfl⟩
/-- One address of each clause, in either bank where the clause names two registers, with its effect. -/
theorem witness_MemWriteStoresEveryRegister :
    State.reset.cfg.dataRanges = [(0x20, 0x6F), (0x70, 0x7F)] ∧ State.reset.cfg.eepromDevice = false ∧
    memWrite State.reset 0x100#9 false 0xFF#8 = .error .bankBit8 ∧
    memWrite State.reset 0x0FF#9 false 0xFF#8 = .ok { State.reset with data := [(0x7F, 0xFF#8)] } ∧
    memWrite State.reset 0x020#9 true 0x01#8 = .ok { State.reset with data := [(0x20, 0x01#8)] } ∧
    memWrite State.reset 0x01F#9 false 0xFF#8 = .error .unlistedFileAddress ∧
    memWrite State.reset 0x083#9 false 0xFF#8 = .ok { State.reset with status := 0xFF#8 } ∧
    memWrite State.reset 0x003#9 true 0xE0#8 = .ok { State.reset with status := 0xFF#8 } ∧
    memWrite State.reset 0x089#9 false 0xFF#8 = .error .eepromControl ∧
    memWrite State.reset 0x080#9 false 0xFF#8 = .ok State.reset ∧
    memWrite State.reset 0x001#9 false 0xA5#8 = .ok { State.reset with tmr0 := 0xA5#8 } ∧
    memWrite State.reset 0x081#9 false 0x07#8 = .ok { State.reset with optionReg := 0x07#8 } ∧
    memWrite { State.reset with pclath := 0x1F#5 } 0x082#9 false 0x80#8 =
      .ok { State.reset with pclath := 0x1F#5, pc := 0x1F80#13 } ∧
    memWrite State.reset 0x084#9 false 0x20#8 = .ok { State.reset with fsr := 0x20#8 } ∧
    memWrite State.reset 0x005#9 false 0x1F#8 = .ok { State.reset with latA := 0x1F#8 } ∧
    memWrite State.reset 0x085#9 false 0x10#8 = .ok { State.reset with trisA := 0x10#8 } ∧
    memWrite State.reset 0x006#9 false 0x01#8 = .ok { State.reset with latB := 0x01#8 } ∧
    memWrite State.reset 0x086#9 false 0xF0#8 = .ok { State.reset with trisB := 0xF0#8 } ∧
    memWrite State.reset 0x008#9 false 0x5A#8 = .ok { State.reset with eedata := 0x5A#8 } ∧
    memWrite State.reset 0x088#9 false 0x5A#8 = .error .eepromControl ∧
    memWrite State.reset 0x009#9 false 0xFF#8 = .ok { State.reset with eeadr := 0x3F#6 } ∧
    memWrite State.reset 0x08A#9 false 0xFF#8 = .ok { State.reset with pclath := 0x1F#5 } ∧
    memWrite State.reset 0x00B#9 false 0xA0#8 = .ok { State.reset with intcon := 0xA0#8 } ∧
    memWrite State.reset 0x087#9 false 0xFF#8 = .error .unlistedFileAddress :=
  ⟨rfl, rfl, rfl, rfl, rfl, rfl, rfl, rfl, rfl, rfl, rfl, rfl, rfl, rfl, rfl, rfl, rfl, rfl, rfl, rfl, rfl, rfl, rfl, rfl⟩
theorem witness_InaccessibleOperandRefusesEveryFileInstruction :
    fileOperand (.movwf 0x0C#7) = some 0x0C#7 ∧ (effAddr (start 0x00 0x58 0x00) 0x0C#7).getLsbD 8 = true ∧
    (effAddr (start 0x00 0x18 0x00) 0x0C#7).getLsbD 8 = false ∧
    (effAddr (start 0x00 0x18 0x00) 0x0C#7).toNat % 0x80 = 0x0C ∧
    inDataRanges (start 0x00 0x18 0x00).cfg (inBank (effAddr (start 0x00 0x18 0x00) 0x0C#7)) = false ∧
    (effAddr (start 0x00 0x18 0x00) 0x07#7).toNat % 0x80 = 0x07 ∧
    (effAddr (start 0x00 0x38 0x00) 0x08#7).toNat = 0x88 ∧ (effAddr (start 0x00 0x38 0x00) 0x09#7).toNat = 0x89 ∧
    (start 0x00 0x38 0x00).cfg.eepromDevice = false := by decide
theorem witness_StoredByteIsLoadedThroughEitherBank :
    (start 0x66 0x18 0x01).data.wf 0x80 = true ∧ isDataAddr (start 0x66 0x18 0x01).cfg 0x20#7 = true ∧
    isDataAddr (start 0x66 0x18 0x01).cfg 0x7F#7 = true ∧ (start 0x66 0x18 0x01).status.getLsbD 6 = false := by decide
theorem witness_EepromWriteSequenceStoresTheByte :
    (withDevice 0b00100#5).cfg.eepromDevice = true ∧ (withDevice 0b00100#5).eeprom.wf 0x40 = true ∧
    (withDevice 0b00100#5).eecon1.getLsbD 2 = true ∧ (withDevice 0b00100#5).eecon1.getLsbD 1 = false ∧
    (0x06#8).getLsbD 1 = true ∧ (0x06#8).getLsbD 0 = false ∧
    ({ Boundary.quiet with eeComplete := true }).eeComplete = true := by decide
theorem witness_EepromReadAndLockedWrite :
    (withDevice 0b00000#5).cfg.eepromDevice = true ∧ (0x01#8).getLsbD 0 = true ∧ (0x02#8).getLsbD 0 = false ∧
    (withDevice 0b00000#5).eecon1.getLsbD 2 = false ∧ (withDevice 0b00100#5).eeUnlock ≠ .unlocked := by decide

/-- An accessible operand: every kind of address at the ends of its range, direct and through FSR; and the neighbours
that are not accessible. -/
theorem witness_accessible :
    accessible (start 0 0x18 0) (effAddr (start 0 0x18 0) 0x20#7) = true ∧
    accessible (start 0 0x38 0) (effAddr (start 0 0x38 0) 0x7F#7) = true ∧
    accessible (start 0 0x18 0) (effAddr (start 0 0x18 0) 0x00#7) = true ∧
    accessible (start 0 0x18 0) (effAddr (start 0 0x18 0) 0x06#7) = true ∧
    accessible (start 0 0x18 0) (effAddr (start 0 0x18 0) 0x08#7) = true ∧
    accessible (start 0 0x38 0) (effAddr (start 0 0x38 0) 0x0B#7) = true ∧
    accessible (withDevice 0) 0x088#9 = true ∧ accessible (withDevice 0) 0x089#9 = true ∧
    accessible (start 0 0x18 0) 0x088#9 = false ∧ accessible (start 0 0x18 0) 0x007#9 = false ∧
    accessible (start 0 0x18 0) 0x00C#9 = false ∧ accessible (start 0 0x18 0) 0x01F#9 = false ∧
    accessible (start 0 0x58 0) (effAddr (start 0 0x58 0) 0x20#7) = false := by decide
theorem witness_AdditionWritesSumAndCarries :
    accessible (start 1 0x18 0xFF) (effAddr (start 1 0x18 0xFF) 0x20#7) = true ∧
    0x07A0#14 &&& 0x3F00#14 = 0x0700#14 ∧ 0x3FFF#14 &&& 0x3E00#14 = 0x3E00#14 ∧
    (effAddr (start 1 0x18 0xFF) 0x02#7).toNat = 0x002 ∧ (effAddr (start 1 0x38 0xFF) 0x02#7).toNat = 0x082 := by decide
theorem witness_SubtractionWritesDifferenceAndBorrows :
    accessible (start 1 0x18 0x00) (effAddr (start 1 0x18 0x00) 0x20#7) = true ∧
    0x02A0#14 &&& 0x3F00#14 = 0x0200#14 ∧ 0x3D05#14 &&& 0x3E00#14 = 0x3C00#14 := by decide
theorem witness_LogicWithFileRegisterWritesZOnly :
    accessible (start 1 0x18 0x00) (effAddr (start 1 0x18 0x00) 0x20#7) = true ∧
    0x0420#14 &&& 0x3F00#14 = 0x0400#14 ∧ 0x05A0#14 &&& 0x3F00#14 = 0x0500#14 ∧
    0x0620#14 &&& 0x3F00#14 = 0x0600#14 := by decide
theorem witness_LogicWithLiteralWritesZOnly :
    0x3881#14 &&& 0x3F00#14 = 0x3800#14 ∧ 0x390F#14 &&& 0x3F00#14 = 0x3900#14 ∧
    0x3A3C#14 &&& 0x3F00#14 = 0x3A00#14 := by decide
theorem witness_DecrementAndIncrementWriteZOnly :
    accessible (start 1 0x18 0x00) (effAddr (start 1 0x18 0x00) 0x20#7) = true ∧
    0x03A0#14 &&& 0x3F00#14 = 0x0300#14 ∧ 0x0AA0#14 &&& 0x3F00#14 = 0x0A00#14 := by decide
theorem witness_RotatesGoThroughCarry :
    accessible (start 1 0x19 0x80) (effAddr (start 1 0x19 0x80) 0x20#7) = true ∧
    0x0CA0#14 &&& 0x3F00#14 = 0x0C00#14 ∧ 0x0DA0#14 &&& 0x3F00#14 = 0x0D00#14 := by decide
theorem witness_SwapExchangesNibbles :
    accessible (start 1 0x18 0xA5) (effAddr (start 1 0x18 0xA5) 0x20#7) = true ∧
    0x0EA0#14 &&& 0x3F00#14 = 0x0E00#14 := by decide
theorem witness_BitClearAndSetRewriteTheByte :
    accessible (start 1 0x18 0xA5) (effAddr (start 1 0x18 0xA5) 0x20#7) = true ∧
    0x13A0#14 &&& 0x3C00#14 = 0x1000#14 ∧ 0x178B#14 &&& 0x3C00#14 = 0x1400#14 := by decide
theorem witness_ClrfStoresZeroAndSetsZ :
    accessible (start 1 0x18 0xA5) (effAddr (start 1 0x18 0xA5) 0x20#7) = true ∧
    0x01A5#14 &&& 0x3F80#14 = 0x0180#14 := by decide
theorem witness_ClrwClearsWAndSetsZ : 0x017F#14 &&& 0x3F80#14 = 0x0100#14 := by decide
theorem witness_ComplementAndMoveWriteZOnly :
    accessible (start 1 0x18 0xFF) (effAddr (start 1 0x18 0xFF) 0x20#7) = true ∧
    0x09A0#14 &&& 0x3F00#14 = 0x0900#14 ∧ 0x0820#14 &&& 0x3F00#14 = 0x0800#14 := by decide
theorem witness_MovwfStoresW :
    accessible (start 1 0x18 0xFF) (effAddr (start 1 0x18 0xFF) 0x20#7) = true ∧
    0x00FF#14 &&& 0x3F80#14 = 0x0080#14 := by decide
theorem witness_MovlwLoadsTheLiteral : 0x33AB#14 &&& 0x3C00#14 = 0x3000#14 := by decide
theorem witness_ReturnsPopTheStack :
    ({ start 0 0x18 0 with stack := [0x0011#13, 0x0200#13] }).stack = 0x0011#13 :: [0x0200#13] ∧
    (start 0 0x18 0).stack = [] ∧ 0x3707#14 &&& 0x3C00#14 = 0x3400#14 := by decide
theorem witness_NopOnlyAdvances : 0x0060#14 &&& 0x3F9F#14 = 0x0000#14 := by decide
theorem witness_CallAndGotoReachTheTarget :
    0x27FF#14 &&& 0x3800#14 = 0x2000#14 ∧ 0x2FFF#14 &&& 0x3800#14 = 0x2800#14 ∧
    (start 0 0x18 0).stack.length ≠ (start 0 0x18 0).cfg.stackDepth ∧
    ({ start 0 0x18 0 with stack := List.replicate 8 0x0001#13 }).stack.length = (start 0 0x18 0).cfg.stackDepth := by
  decide
theorem witness_CountAndSkipIfZero :
    accessible (start 1 0x18 0x01) (effAddr (start 1 0x18 0x01) 0x20#7) = true ∧
    ¬((effAddr (start 1 0x18 0x01) 0x20#7).toNat % 0x80 = 0x02) ∧
    accessible (start 1 0x18 0x01) (effAddr (start 1 0x18 0x01) 0x02#7) = true ∧
    (effAddr (start 1 0x18 0x01) 0x02#7).toNat % 0x80 = 0x02 ∧
    0x0BA0#14 &&& 0x3F00#14 = 0x0B00#14 ∧ 0x0FA0#14 &&& 0x3F00#14 = 0x0F00#14 := by decide
theorem witness_BitTestsSkip :
    accessible (start 1 0x18 0x01) (effAddr (start 1 0x18 0x01) 0x03#7) = true ∧
    0x1903#14 &&& 0x3C00#14 = 0x1800#14 ∧ 0x1FA0#14 &&& 0x3C00#14 = 0x1C00#14 := by decide
theorem witness_InterruptEntrySavesPcAndMasks :
    (start 0 0x18 0).stack.length ≠ (start 0 0x18 0).cfg.stackDepth ∧
    ({ start 0 0x18 0 with stack := List.replicate 8 0x0001#13 }).stack.length = (start 0 0x18 0).cfg.stackDepth := by
  decide

/-- A state in which the interrupt is due, without and with a put-off entry that has used up its bound. -/
def dueState (defer : Bool) : State :=
  { start 0 0x18 0 with intcon := 0xA4#8, env := [{ Boundary.quiet with deferInt := defer }] }

/-- The same with a full stack. -/
def dueFull : State := { dueState false with stack := List.replicate 8 0x0001#13 }

theorem witness_DueInterruptReplacesTheFetch :
    (Awake (dueState false).boundary (openBoundary (dueState false)) ∧
      (openBoundary (dueState false)).intcon.getLsbD 7 = true ∧ SourcePending (openBoundary (dueState false)) ∧
      (dueState false).boundary.deferInt = false ∧
      (dueState false).stack.length ≠ (dueState false).cfg.stackDepth) ∧
    ((dueState true).boundary.deferInt = true ∧ (dueState true).cfg.intDeferMax ≤ (dueState true).deferred) :=
  ⟨⟨⟨rfl, by decide, by decide⟩, by decide, Or.inl ⟨by decide, by decide⟩, rfl, by decide⟩, rfl, by decide⟩
/-- V-IN10: the clause of the full stack. -/
theorem witness_DueInterruptReplacesTheFetch_full :
    (Awake dueFull.boundary (openBoundary dueFull) ∧ (openBoundary dueFull).intcon.getLsbD 7 = true ∧
      SourcePending (openBoundary dueFull) ∧ dueFull.boundary.deferInt = false ∧
      dueFull.stack.length = dueFull.cfg.stackDepth) ∧ refusal (step dueFull) = some .stackOverflow :=
  ⟨⟨⟨rfl, by decide, by decide⟩, by decide, Or.inl ⟨by decide, by decide⟩, rfl, by decide⟩, by decide⟩

/-- The interrupt is due at the word `MOVLW 0x01` and the environment asks to put the entry off, one instruction being
allowed. -/
def putOff : State :=
  { atMovlw with intcon := 0xA4#8, cfg := { Config.standard with intDeferMax := 1 },
                 env := [{ Boundary.quiet with deferInt := true }] }

theorem witness_PutOffInterruptRunsTheInstruction :
    Awake putOff.boundary (openBoundary putOff) ∧ (openBoundary putOff).intcon.getLsbD 7 = true ∧
    SourcePending (openBoundary putOff) ∧ putOff.boundary.deferInt = true ∧ putOff.deferred < putOff.cfg.intDeferMax ∧
    putOff.prog.read putOff.pc.toNat = some 0x3001#14 ∧ decode 0x3001#14 = .ok (.movlw 0x01#8) ∧
    view (fun t => (t.w, t.pc, t.deferred)) (step putOff) = some (0x01#8, 0x0011#13, 1) :=
  ⟨⟨rfl, by decide, by decide⟩, by decide, Or.inl ⟨by decide, by decide⟩, rfl, by decide, rfl, rfl, by decide⟩
theorem witness_RetfieUndoesTheInterruptEntry :
    takeInterrupt (dueState false) =
      .ok { dueState false with intcon := 0x24#8, stack := [0x0010#13], pc := 0x0004#13 } := rfl
theorem witness_ReturnUndoesTheCall :
    exec (.call 0x123#11) (start 0 0x18 0) =
      .next { start 0 0x18 0 with stack := [0x0011#13], pc := 0x0123#13 } := rfl

/-- A sleeping core at the word `MOVLW 0x01`, with the given INTCON and line event. -/
def asleep (intcon : Byte) (line : LineEvent) (wdt : Bool) : State :=
  { atMovlw with sleeping := true, intcon := intcon, env := [{ Boundary.quiet with line := line }],
                 cfg := { Config.standard with wdtEnabled := wdt } }

theorem witness_SleepLastsUntilAnEnabledFlag :
    (asleep 0x00 .quiet false).sleeping = true ∧ (asleep 0x00 .quiet false).boundary.line ≠ .mclr ∧
    ¬((asleep 0x00 .quiet false).boundary.line = .wdtTimeout ∧ (asleep 0x00 .quiet false).cfg.wdtEnabled = true) ∧
    ¬SourcePending (openBoundary (asleep 0x00 .quiet false)) ∧
    ((openBoundary (asleep 0x12 .quiet false)).intcon.getLsbD 4 = true ∧
      (openBoundary (asleep 0x12 .quiet false)).intcon.getLsbD 1 = true) ∧
    (asleep 0x12 .quiet false).prog.read (asleep 0x12 .quiet false).pc.toNat = some 0x3001#14 ∧
    decode 0x3001#14 = .ok (.movlw 0x01#8) :=
  ⟨rfl, by decide, by decide, by unfold SourcePending; decide, by decide, rfl, rfl⟩
theorem witness_WatchdogTimeoutRestartsOrWakes :
    (asleep 0x00 .wdtTimeout true).boundary.line = .wdtTimeout ∧ (asleep 0x00 .wdtTimeout true).cfg.wdtEnabled = true ∧
    (asleep 0x00 .wdtTimeout true).sleeping = true ∧
    (asleep 0x00 .wdtTimeout true).prog.read (asleep 0x00 .wdtTimeout true).pc.toNat = some 0x3001#14 ∧
    ({ asleep 0x00 .wdtTimeout true with sleeping := false }).sleeping = false ∧
    (asleep 0x00 .wdtTimeout false).cfg.wdtEnabled = false ∧
    (asleep 0x00 .wdtTimeout false).boundary.line = .wdtTimeout := by decide
theorem witness_MclrResetsFromEveryState : (asleep 0x00 .mclr false).boundary.line = .mclr := rfl
/-- A write of 0x5A to the EEPROM address 0x3F in progress, and whether the boundary completes it. -/
def eeBusy (complete : Bool) : State :=
  { withDevice 0b00110#5 with eePending := some (0x3F#6, 0x5A#8),
                              env := [{ Boundary.quiet with eeComplete := complete }] }

/-- The device off; on without the event; on with it, a write in progress or none. -/
theorem witness_EnvironmentOnlyRaisesFlags :
    (start 0 0x18 0).cfg.eepromDevice = false ∧
    ((eeBusy false).cfg.eepromDevice = true ∧ (eeBusy false).boundary.eeComplete = false ∧
      (openBoundary (eeBusy false)).eePending = some (0x3F#6, 0x5A#8)) ∧
    ((eeBusy true).boundary.eeComplete = true ∧ (eeBusy true).eePending = some (0x3F#6, 0x5A#8) ∧
      (eeBusy true).eeprom.wf 0x40 = true ∧ (openBoundary (eeBusy true)).eeprom = [(0x3F, 0x5A#8)] ∧
      (openBoundary (eeBusy true)).eecon1 = 0b10100#5) ∧
    (({ eeBusy true with eePending := none }).eePending = none ∧
      (openBoundary { eeBusy true with eePending := none }).eeprom = []) := by decide
theorem witness_PortReadModifyWriteUsesTheDrawnPins : (effAddr (start 0 0x18 0) 0x06#7).toNat = 0x006 := by decide
/-- `BCF INTCON, T0IF` run by a step clears T0IF. -/
theorem witness_InterruptFlagsAreClearedOnlyBySoftwareOrReset :
    view (·.intcon) (step ({ start 0 0x18 0 with intcon := 0x24#8 }.withFetchWord 14 0x110B)) = some 0x20#8 := by decide
/-- A step runs an instruction in each of the three kinds that do. -/
theorem witness_StepRan :
    StepRan atMovlw (.movlw 0x01#8) ∧ StepRan putOff (.movlw 0x01#8) ∧
    StepRan (asleep 0x12 .quiet false) (.movlw 0x01#8) :=
  ⟨⟨.inl (by decide), 0x3001#14, rfl, rfl⟩, ⟨.inr (.inl (by decide)), 0x3001#14, rfl, rfl⟩,
    ⟨.inr (.inr ⟨false, by decide⟩), 0x3001#14, rfl, rfl⟩⟩
/-- A state of the invariant with data, a stack and a program, and its next step. -/
theorem witness_EveryStepKeepsTheInvariant :
    atMovlw.Inv ∧ view (·.w) (step atMovlw) = some 0x01#8 :=
  ⟨⟨by decide, by decide, by decide, by decide, by decide, by decide, by decide, by decide, by decide, by decide⟩,
    by decide⟩
theorem witness_ProgramIsConstantOverEveryRun :
    view (·.pc) (Host.Core.run Sys2Proof.core 1 atMovlw) = some 0x0011#13 := by decide
theorem witness_OnlySleepAndClrwdtChangeToAndPd :
    view (·.status) (exec (.movwf 0x03#7) (start 0xA7 0x18 0x00)) = some 0xBF#8 ∧
    Instr.movwf 0x03#7 ≠ .sleep ∧ Instr.movwf 0x03#7 ≠ .clrwdt := by decide
/-- ADDWF to STATUS meets the premise about STATUS with a true right side; MOVWF to 0x20 stores elsewhere. -/
theorem witness_FlagsChangeOnlyByTheirWriters :
    fileReg (start 0x20 0x18 0).cfg (effAddr (start 0x20 0x18 0) 0x03#7) = .ok .status ∧
    writesZ (.addwf 0x03#7 .f) = true ∧ seen (exec (.addwf 0x03#7 .f) (start 0x20 0x18 0x00)) =
      some (0x20, 0x0011, 0x38, 0x00) ∧
    fileReg (start 0x20 0x18 0).cfg (effAddr (start 0x20 0x18 0) 0x20#7) ≠ .ok .status :=
  ⟨rfl, rfl, by decide, nofun⟩
theorem witness_StackChangesOnlyByCallReturnAndInterrupt :
    isReturn (.movlw 0x01#8) = false ∧ (∀ k, Instr.movlw 0x01#8 ≠ .call k) ∧
    view (·.stack) (exec (.movlw 0x01#8) (start 0 0x18 0)) = some [] ∧
    view (·.stack) (step (dueState false)) = some [0x0010#13] ∧ (dueState false).stack ≠ [0x0010#13] :=
  ⟨rfl, nofun, by decide, by decide, by decide⟩
theorem witness_SpecialRegistersChangeOnlyByTheirWriters :
    storesTo (.movwf 0x04#7) (start 0x33 0x18 0) = some 0x004#9 ∧
    view (fun t => (t.fsr, t.pclath)) (exec (.movwf 0x04#7) (start 0x33 0x18 0)) = some (0x33#8, 0b00000#5) := by decide
theorem witness_DataMemoryChangesOnlyAtTheStoredAddress :
    storesTo (.movwf 0x21#7) (start 0x33 0x18 0x55) = some 0x021#9 ∧
    view (fun t => (t.data.read 0x20, t.data.read 0x21)) (exec (.movwf 0x21#7) (start 0x33 0x18 0x55)) =
      some (0x55#8, 0x33#8) ∧
    storesTo (.movlw 0x01#8) (start 0x33 0x18 0x55) = none := by decide
theorem witness_WIsUsedOnlyByItsReadersAndWriters :
    writesW (.incf 0x20#7 .f) = false ∧ readsW (.incf 0x20#7 .f) = false ∧
    seen (exec (.incf 0x20#7 .f) (start 0x33 0x18 0x55)) = some (0x33, 0x0011, 0x18, 0x56) := by decide
theorem witness_PcChangesOnlyInTheListedWays :
    view (·.pc) (exec (.movwf 0x02#7) { start 0x80 0x18 0 with pclath := 0x1F#5 }) = some 0x1F80#13 := by decide

end Sys2Proof.Tests
end

section
/-!
PROOFS. The logic instructions of 40_arith_logic.md (R153 to R155, R157 to R159). First what the decoder does with the
fields of a word, then the encodings and the rules of the six instructions.
-/

namespace Sys2Proof.Machine

/-! ### Fields of a word -/

/-- A field that the mask covers whole is fixed by the pattern. -/
theorem extractLsb'_of_and_eq {n : Nat} {w mask pattern : BitVec n} {start len : Nat} (h : w &&& mask = pattern)
    (hmask : mask.extractLsb' start len = BitVec.allOnes len) :
    w.extractLsb' start len = pattern.extractLsb' start len := by
  rw [← h, BitVec.extractLsb'_and, hmask, BitVec.and_allOnes]

/-! ### The decoder by groups (30_encoding.md R126) -/

/-- The group `00`: the byte-oriented file instructions. -/
theorem decode_of_group_file {w : InstrWord} (h : w.extractLsb' 12 2 = 0b00#2) : decode w = decodeFile w := by
  simp [decode, h]

/-- The group `11`: the literal instructions. -/
theorem decode_of_group_literal {w : InstrWord} (h : w.extractLsb' 12 2 = 0b11#2) : decode w = decodeLiteral w := by
  simp [decode, h]

theorem decodeFile_iorwf {w : InstrWord} (h : w.extractLsb' 8 4 = 0x4#4) :
    decodeFile w = .ok (.iorwf (fieldF w) (fieldD w)) := by
  simp [decodeFile, h]

theorem decodeFile_andwf {w : InstrWord} (h : w.extractLsb' 8 4 = 0x5#4) :
    decodeFile w = .ok (.andwf (fieldF w) (fieldD w)) := by
  simp [decodeFile, h]

theorem decodeFile_xorwf {w : InstrWord} (h : w.extractLsb' 8 4 = 0x6#4) :
    decodeFile w = .ok (.xorwf (fieldF w) (fieldD w)) := by
  simp [decodeFile, h]

theorem decodeLiteral_iorlw {w : InstrWord} (hclass : w.extractLsb' 10 2 = 0b10#2) (hop : w.extractLsb' 8 2 = 0b00#2) :
    decodeLiteral w = .ok (.iorlw (fieldK8 w)) := by
  simp [decodeLiteral, hclass, hop]

theorem decodeLiteral_andlw {w : InstrWord} (hclass : w.extractLsb' 10 2 = 0b10#2) (hop : w.extractLsb' 8 2 = 0b01#2) :
    decodeLiteral w = .ok (.andlw (fieldK8 w)) := by
  simp [decodeLiteral, hclass, hop]

theorem decodeLiteral_xorlw {w : InstrWord} (hclass : w.extractLsb' 10 2 = 0b10#2) (hop : w.extractLsb' 8 2 = 0b10#2) :
    decodeLiteral w = .ok (.xorlw (fieldK8 w)) := by
  simp [decodeLiteral, hclass, hop]

/-- A byte-oriented row of the table, from the arm its opcode, bits 11..8, has in the decoder. -/
theorem ByteEncoding.of {mk : FileField → Dest → Instr} {pattern : InstrWord}
    (hgroup : pattern.extractLsb' 12 2 = 0b00#2)
    (harm : ∀ w : InstrWord, w.extractLsb' 8 4 = pattern.extractLsb' 8 4 →
      decodeFile w = .ok (mk (fieldF w) (fieldD w))) :
    ByteEncoding mk pattern := by
  intro w hw
  have hg : w.extractLsb' 12 2 = 0b00#2 := (extractLsb'_of_and_eq hw rfl).trans hgroup
  have hop : w.extractLsb' 8 4 = pattern.extractLsb' 8 4 := extractLsb'_of_and_eq hw rfl
  exact (decode_of_group_file hg).trans (harm w hop)

/-- A literal row of the table, from what the decoder's literal group does with a word that fits the row. -/
theorem LiteralEncoding.of {mk : Byte → Instr} {mask pattern : InstrWord}
    (hmask : mask.extractLsb' 12 2 = BitVec.allOnes 2) (hgroup : pattern.extractLsb' 12 2 = 0b11#2)
    (harm : ∀ w : InstrWord, w &&& mask = pattern → decodeLiteral w = .ok (mk (fieldK8 w))) :
    LiteralEncoding mk mask pattern := by
  intro w hw
  have hg : w.extractLsb' 12 2 = 0b11#2 := (extractLsb'_of_and_eq hw hmask).trans hgroup
  exact (decode_of_group_literal hg).trans (harm w hw)

/-! ### Results that write Z alone -/

/-- The flags of a "FlagsZ" result (R27): Z says whether the result is 0; DC and C are not written. -/
theorem zResult_flags (r : Byte) : (zResult r).flags = ⟨some (decide (r = 0)), none, none⟩ := rfl

/-- A byte-oriented instruction marked "FlagsZ" stores its result by `d` and writes Z alone. -/
theorem ByteRule.of_zResult {mk : FileField → Dest → Instr} {result : State → Byte → Byte}
    (hexec : ∀ f d s, exec (mk f d) s = finish (byteOp f d (fun v => zResult (result s v)) s)) :
    ByteRule mk true result (fun s v => some (decide (result s v = 0))) notWritten notWritten :=
  .of (fun s v => zResult (result s v)) hexec (fun _ _ => rfl) (fun _ _ => rfl) fun s v => zResult_flags (result s v)

/-- A literal instruction marked "FlagsZ" stores its result in W and writes Z alone. -/
theorem LiteralRule.of_zResult {mk : Byte → Instr} {result : State → Byte → Byte}
    (hexec : ∀ k s, exec (mk k) s = .next (literalOp (zResult (result s k)) s)) :
    LiteralRule mk result (fun s k => some (decide (result s k = 0))) notWritten notWritten :=
  .of (fun s k => zResult (result s k)) hexec (fun _ _ => rfl) fun s k => zResult_flags (result s k)

/-! ### The meaning of each logic instruction, as its shape -/

theorem exec_iorwf (f : FileField) (d : Dest) (s : State) :
    exec (.iorwf f d) s = finish (byteOp f d (fun v => zResult (s.w ||| v)) s) := rfl

theorem exec_andwf (f : FileField) (d : Dest) (s : State) :
    exec (.andwf f d) s = finish (byteOp f d (fun v => zResult (s.w &&& v)) s) := rfl

theorem exec_xorwf (f : FileField) (d : Dest) (s : State) :
    exec (.xorwf f d) s = finish (byteOp f d (fun v => zResult (s.w ^^^ v)) s) := rfl

theorem exec_iorlw (k : Byte) (s : State) : exec (.iorlw k) s = .next (literalOp (zResult (s.w ||| k)) s) := rfl

theorem exec_andlw (k : Byte) (s : State) : exec (.andlw k) s = .next (literalOp (zResult (s.w &&& k)) s) := rfl

theorem exec_xorlw (k : Byte) (s : State) : exec (.xorlw k) s = .next (literalOp (zResult (s.w ^^^ k)) s) := rfl

/-! ### The rows of the opcode table (30_encoding.md R125) -/

theorem byteEncoding_iorwf : ByteEncoding .iorwf 0x0400#14 := .of rfl fun _ => decodeFile_iorwf

theorem byteEncoding_andwf : ByteEncoding .andwf 0x0500#14 := .of rfl fun _ => decodeFile_andwf

theorem byteEncoding_xorwf : ByteEncoding .xorwf 0x0600#14 := .of rfl fun _ => decodeFile_xorwf

theorem literalEncoding_iorlw : LiteralEncoding .iorlw 0x3F00#14 0x3800#14 :=
  .of rfl rfl fun _ hw => decodeLiteral_iorlw (extractLsb'_of_and_eq hw rfl) (extractLsb'_of_and_eq hw rfl)

theorem literalEncoding_andlw : LiteralEncoding .andlw 0x3F00#14 0x3900#14 :=
  .of rfl rfl fun _ hw => decodeLiteral_andlw (extractLsb'_of_and_eq hw rfl) (extractLsb'_of_and_eq hw rfl)

theorem literalEncoding_xorlw : LiteralEncoding .xorlw 0x3F00#14 0x3A00#14 :=
  .of rfl rfl fun _ hw => decodeLiteral_xorlw (extractLsb'_of_and_eq hw rfl) (extractLsb'_of_and_eq hw rfl)

/-! ### The statements -/

/-- Settles O15: the encodings by the decoder's arms, the rules as byte-oriented instructions marked "FlagsZ". -/
theorem logicWithFileRegisterWritesZOnly : Obligations.LogicWithFileRegisterWritesZOnly :=
  ⟨byteEncoding_iorwf, byteEncoding_andwf, byteEncoding_xorwf,
    .of_zResult exec_iorwf, .of_zResult exec_andwf, .of_zResult exec_xorwf⟩

/-- Settles O16: the encodings by the decoder's arms, the rules as literal instructions marked "FlagsZ". -/
theorem logicWithLiteralWritesZOnly : Obligations.LogicWithLiteralWritesZOnly :=
  ⟨literalEncoding_iorlw, literalEncoding_andlw, literalEncoding_xorlw,
    .of_zResult exec_iorlw, .of_zResult exec_andlw, .of_zResult exec_xorlw⟩

end Sys2Proof.Machine
end

section
/-!
PROOFS. DECF and INCF of 41_inc_dec.md (R170, R171). The model computes on bytes, the rules are stated on numbers modulo
0x100; two facts for each instruction join the two.
-/

namespace Sys2Proof.Machine

/-! ### A byte minus and plus one, as a number modulo 0x100 -/

theorem byte_sub_one_eq_ofNat (v : Byte) : v - 1#8 = BitVec.ofNat 8 (v.toNat + 0xFF) := by
  bv_omega

theorem byte_add_one_eq_ofNat (v : Byte) : v + 1#8 = BitVec.ofNat 8 (v.toNat + 1) := by
  bv_omega

theorem byte_sub_one_eq_zero_iff (v : Byte) : v - 1#8 = 0 ↔ v.toNat = 1 := by
  bv_omega

/-- An increment gives 0 exactly where it wraps. -/
theorem byte_add_one_eq_zero_iff (v : Byte) : v + 1#8 = 0 ↔ v.toNat = 0xFF := by
  bv_omega

/-! ### A "FlagsZ" result under another description -/

/-- A byte-oriented instruction marked "FlagsZ", its result and the condition for Z described in other words than the
model's. -/
theorem ByteRule.of_zResult_iff {mk : FileField → Dest → Instr} {value result : State → Byte → Byte}
    {isZero : State → Byte → Prop} [∀ s v, Decidable (isZero s v)]
    (hexec : ∀ f d s, exec (mk f d) s = finish (byteOp f d (fun v => zResult (value s v)) s))
    (hvalue : ∀ s v, value s v = result s v) (hzero : ∀ s v, value s v = 0 ↔ isZero s v) :
    ByteRule mk true result (fun s v => some (decide (isZero s v))) notWritten notWritten := by
  have hflags (s : State) (v : Byte) : (zResult (value s v)).flags = ⟨some (decide (isZero s v)), none, none⟩ := by
    rw [zResult_flags, decide_eq_decide.mpr (hzero s v)]
  exact .of (fun s v => zResult (value s v)) hexec (fun _ _ => rfl) hvalue hflags

/-! ### The meaning of each instruction, as its shape -/

theorem exec_decf (f : FileField) (d : Dest) (s : State) :
    exec (.decf f d) s = finish (byteOp f d (fun v => zResult (v - 1#8)) s) := rfl

theorem exec_incf (f : FileField) (d : Dest) (s : State) :
    exec (.incf f d) s = finish (byteOp f d (fun v => zResult (v + 1#8)) s) := rfl

/-! ### The rows of the opcode table (30_encoding.md R125) -/

theorem decodeFile_decf {w : InstrWord} (h : w.extractLsb' 8 4 = 0x3#4) :
    decodeFile w = .ok (.decf (fieldF w) (fieldD w)) := by
  simp [decodeFile, h]

theorem decodeFile_incf {w : InstrWord} (h : w.extractLsb' 8 4 = 0xA#4) :
    decodeFile w = .ok (.incf (fieldF w) (fieldD w)) := by
  simp [decodeFile, h]

theorem byteEncoding_decf : ByteEncoding .decf 0x0300#14 := .of rfl fun _ => decodeFile_decf

theorem byteEncoding_incf : ByteEncoding .incf 0x0A00#14 := .of rfl fun _ => decodeFile_incf

/-! ### The statement -/

/-- Settles O17: the encodings by the decoder's arms, the rules as byte-oriented instructions marked "FlagsZ" whose
result is read as a number modulo 0x100. -/
theorem decrementAndIncrementWriteZOnly : Obligations.DecrementAndIncrementWriteZOnly :=
  ⟨byteEncoding_decf, byteEncoding_incf,
    .of_zResult_iff exec_decf (fun _ => byte_sub_one_eq_ofNat) (fun _ => byte_sub_one_eq_zero_iff),
    .of_zResult_iff exec_incf (fun _ => byte_add_one_eq_ofNat) (fun _ => byte_add_one_eq_zero_iff)⟩

end Sys2Proof.Machine
end

section
/-!
PROOFS. The rotates and the nibble exchange of 42_rotate_swap.md (R175 to R177). The model cuts and joins bit fields, the
rules are stated by arithmetic; one lemma about joined fields leads from the one to the other.
-/

namespace Sys2Proof.Machine

/-! ### Bit fields as numbers -/

/-- Joining two fields moves the upper one up by the width of the lower one. -/
theorem toNat_append_eq_add {m n : Nat} (hi : BitVec m) (lo : BitVec n) :
    (hi ++ lo).toNat = 2 ^ n * hi.toNat + lo.toNat := by
  rw [BitVec.toNat_append, ← Nat.shiftLeft_add_eq_or_of_lt lo.isLt, Nat.shiftLeft_eq, Nat.mul_comm]

/-- Two joined fields are the word of a number once the number, cut to their width, is the sum of theirs. -/
theorem append_eq_ofNat {m n x : Nat} {hi : BitVec m} {lo : BitVec n}
    (h : 2 ^ n * hi.toNat + lo.toNat = x % 2 ^ (m + n)) : hi ++ lo = BitVec.ofNat (m + n) x := by
  apply BitVec.eq_of_toNat_eq
  rw [toNat_append_eq_add, BitVec.toNat_ofNat, h]

/-- Bit 7 of a byte says whether its number reaches 0x80. -/
theorem byte_getLsbD_seven_eq_decide (v : Byte) : v.getLsbD 7 = decide (0x80 ≤ v.toNat) :=
  (BitVec.msb_eq_getLsbD_last v).symm.trans (BitVec.msb_eq_decide v)

/-! ### The results and their flags -/

/-- RRF halves the register, and the old C comes in above (R175). -/
theorem rotateRight_value (c : Bool) (v : Byte) :
    (rotateRight c v).value = BitVec.ofNat 8 (0x80 * c.toNat + v.toNat / 2) := by
  refine append_eq_ofNat ?_
  have hc : c.toNat ≤ 1 := c.toNat_le
  rw [BitVec.toNat_ofBool, BitVec.extractLsb'_toNat]
  omega

theorem rotateRight_flags (c : Bool) (v : Byte) :
    (rotateRight c v).flags = ⟨none, none, some (decide (v.toNat % 2 = 1))⟩ := by
  rw [rotateRight, BitVec.getLsbD, Nat.testBit_zero]

/-- RLF doubles the register modulo 0x100, and the old C comes in below (R176). -/
theorem rotateLeft_value (c : Bool) (v : Byte) :
    (rotateLeft c v).value = BitVec.ofNat 8 (2 * v.toNat + c.toNat) := by
  refine append_eq_ofNat ?_
  have hc : c.toNat ≤ 1 := c.toNat_le
  rw [BitVec.toNat_ofBool, BitVec.extractLsb'_toNat]
  omega

theorem rotateLeft_flags (c : Bool) (v : Byte) :
    (rotateLeft c v).flags = ⟨none, none, some (decide (0x80 ≤ v.toNat))⟩ := by
  rw [rotateLeft, byte_getLsbD_seven_eq_decide]

/-- SWAPF puts the low nibble above the high one (R177). -/
theorem swapNibbles_eq_ofNat (v : Byte) :
    swapNibbles v = BitVec.ofNat 8 (0x10 * (v.toNat % 0x10) + v.toNat / 0x10) := by
  refine append_eq_ofNat ?_
  have hlow : (v.extractLsb' 0 4).toNat = v.toNat % 0x10 := BitVec.extractLsb'_toNat 0 4 v
  have hhigh : (v.extractLsb' 4 4).toNat = v.toNat / 0x10 := by
    rw [BitVec.extractLsb'_toNat, Nat.shiftRight_eq_div_pow]
    exact Nat.mod_eq_of_lt (by omega)
  omega

/-! ### The meaning of each instruction, as its shape -/

theorem exec_rrf (f : FileField) (d : Dest) (s : State) :
    exec (.rrf f d) s = finish (byteOp f d (rotateRight s.flagC) s) := rfl

theorem exec_rlf (f : FileField) (d : Dest) (s : State) :
    exec (.rlf f d) s = finish (byteOp f d (rotateLeft s.flagC) s) := rfl

theorem exec_swapf (f : FileField) (d : Dest) (s : State) :
    exec (.swapf f d) s = finish (byteOp f d (fun v => plainResult (swapNibbles v)) s) := rfl

/-! ### The rows of the opcode table (30_encoding.md R125) -/

theorem decodeFile_rrf {w : InstrWord} (h : w.extractLsb' 8 4 = 0xC#4) :
    decodeFile w = .ok (.rrf (fieldF w) (fieldD w)) := by
  simp [decodeFile, h]

theorem decodeFile_rlf {w : InstrWord} (h : w.extractLsb' 8 4 = 0xD#4) :
    decodeFile w = .ok (.rlf (fieldF w) (fieldD w)) := by
  simp [decodeFile, h]

theorem decodeFile_swapf {w : InstrWord} (h : w.extractLsb' 8 4 = 0xE#4) :
    decodeFile w = .ok (.swapf (fieldF w) (fieldD w)) := by
  simp [decodeFile, h]

theorem byteEncoding_rrf : ByteEncoding .rrf 0x0C00#14 := .of rfl fun _ => decodeFile_rrf

theorem byteEncoding_rlf : ByteEncoding .rlf 0x0D00#14 := .of rfl fun _ => decodeFile_rlf

theorem byteEncoding_swapf : ByteEncoding .swapf 0x0E00#14 := .of rfl fun _ => decodeFile_swapf

/-! ### The statements -/

/-- Settles O18: the encodings by the decoder's arms, the rules as byte-oriented instructions that write C, their nine
bits read as numbers. -/
theorem rotatesGoThroughCarry : Obligations.RotatesGoThroughCarry :=
  ⟨byteEncoding_rrf, byteEncoding_rlf,
    .of (fun s => rotateRight s.flagC) exec_rrf (fun _ _ => rfl) (fun s => rotateRight_value s.flagC)
      fun s => rotateRight_flags s.flagC,
    .of (fun s => rotateLeft s.flagC) exec_rlf (fun _ _ => rfl) (fun s => rotateLeft_value s.flagC)
      fun s => rotateLeft_flags s.flagC⟩

/-- Settles O19: the encoding by the decoder's arm, the rule as a byte-oriented instruction without flags of its own. -/
theorem swapExchangesNibbles : Obligations.SwapExchangesNibbles :=
  ⟨byteEncoding_swapf,
    .of (fun _ v => plainResult (swapNibbles v)) exec_swapf (fun _ _ => rfl) (fun _ => swapNibbles_eq_ofNat)
      fun _ _ => rfl⟩

end Sys2Proof.Machine
end

section
/-!
PROOFS. BCF and BSF of 43_bit_manip.md (R180, R181). Both are byte-oriented stores without flags of their own, so the
state after the register write is the next state; the decoder's group of the bit instructions gives their rows.
-/

namespace Sys2Proof.Machine

/-! ### The bit instructions in the decoder (30_encoding.md R126) -/

/-- The group `01`: the bit instructions. -/
theorem decode_of_group_bit {w : InstrWord} (h : w.extractLsb' 12 2 = 0b01#2) : decode w = decodeBit w := by
  simp [decode, h]

theorem decodeBit_bcf {w : InstrWord} (h : w.extractLsb' 10 2 = 0b00#2) :
    decodeBit w = .ok (.bcf (fieldF w) (fieldB w)) := by
  simp [decodeBit, h]

theorem decodeBit_bsf {w : InstrWord} (h : w.extractLsb' 10 2 = 0b01#2) :
    decodeBit w = .ok (.bsf (fieldF w) (fieldB w)) := by
  simp [decodeBit, h]

/-- A bit-oriented row of the table, from the arm its opcode, bits 11..10, has in the decoder. -/
theorem BitEncoding.of {mk : FileField → BitIndex → Instr} {pattern : InstrWord}
    (hgroup : pattern.extractLsb' 12 2 = 0b01#2)
    (harm : ∀ w : InstrWord, w.extractLsb' 10 2 = pattern.extractLsb' 10 2 →
      decodeBit w = .ok (mk (fieldF w) (fieldB w))) :
    BitEncoding mk pattern := by
  intro w hw
  have hg : w.extractLsb' 12 2 = 0b01#2 := (extractLsb'_of_and_eq hw rfl).trans hgroup
  have hop : w.extractLsb' 10 2 = pattern.extractLsb' 10 2 := extractLsb'_of_and_eq hw rfl
  exact (decode_of_group_bit hg).trans (harm w hop)

/-! ### The rows of the opcode table (30_encoding.md R125) -/

theorem bitEncoding_bcf : BitEncoding .bcf 0x1000#14 := .of rfl fun _ => decodeBit_bcf

theorem bitEncoding_bsf : BitEncoding .bsf 0x1400#14 := .of rfl fun _ => decodeBit_bsf

/-! ### The meaning of each instruction, as its shape -/

/-- The mask of bit `b` is 1 moved up by `b` places. -/
theorem bitMask_eq_shiftLeft (b : BitIndex) : bitMask b = 1#8 <<< b.toNat := rfl

theorem exec_bcf (f : FileField) (b : BitIndex) (s : State) :
    exec (.bcf f b) s = finish (byteOp f .f (fun v => plainResult (v &&& ~~~(1#8 <<< b.toNat))) s) := by
  rw [← bitMask_eq_shiftLeft]; rfl

theorem exec_bsf (f : FileField) (b : BitIndex) (s : State) :
    exec (.bsf f b) s = finish (byteOp f .f (fun v => plainResult (v ||| (1#8 <<< b.toNat))) s) := by
  rw [← bitMask_eq_shiftLeft]; rfl

/-! ### Reading, changing and writing back one byte -/

/-- A byte-oriented instruction that writes no flag of its own and stores back to an accessible operand: the next state
is the one the register write gives (R88). -/
theorem byteOp_writesBack {f : FileField} {s : State} (result : Byte → Byte)
    (h : accessible s (effAddr s f) = true) :
    ∃ v t, memRead s (effAddr s f) = .ok v ∧
      memWrite { s with pc := s.pc + 1#13 } (effAddr s f) false (result v) = .ok t ∧
      byteOp f .f (fun v => plainResult (result v)) s = .ok t := by
  obtain ⟨v, t, hread, -, hwrite, hop⟩ := byteOp_completes (d := .f) (alu := fun v => plainResult (result v)) h
  have hflags : t.setFlags (plainResult (result v)).flags = t := t.setFlags_nothing
  exact ⟨v, t, hread, hwrite rfl, hop.trans (congrArg Except.ok hflags)⟩

/-- An instruction of that shape completes on every accessible operand, its store being the whole next state. -/
theorem exec_writesBack {i : Instr} {f : FileField} {s : State} {result : Byte → Byte}
    (hexec : exec i s = finish (byteOp f .f (fun v => plainResult (result v)) s))
    (h : accessible s (effAddr s f) = true) :
    ∃ v t, memRead s (effAddr s f) = .ok v ∧
      memWrite { s with pc := s.pc + 1#13 } (effAddr s f) false (result v) = .ok t ∧ exec i s = .next t := by
  obtain ⟨v, t, hread, hwrite, hop⟩ := byteOp_writesBack result h
  exact ⟨v, t, hread, hwrite, by rw [hexec, hop, finish_ok]⟩

/-! ### The statement -/

/-- Settles O20: the encodings by the decoder's arms, the rules as byte-oriented stores without flags of their own. -/
theorem bitClearAndSetRewriteTheByte : Obligations.BitClearAndSetRewriteTheByte :=
  ⟨bitEncoding_bcf, bitEncoding_bsf, fun f b s => exec_writesBack (exec_bcf f b s),
    fun f b s => exec_writesBack (exec_bsf f b s)⟩

end Sys2Proof.Machine
end

section
/-!
PROOFS. CLRF and COMF of 44_clear_complement.md (R186, R187), and MOVF of 45_load_store.md (R191), which shares COMF's
statement. CLRF is a store without a read, so its next state is the register write with Z set after it.
-/

namespace Sys2Proof.Machine

/-! ### One bit of a word -/

/-- A bit that the mask covers is fixed by the pattern. -/
theorem getLsbD_of_and_eq {n : Nat} {w mask pattern : BitVec n} {i : Nat} (h : w &&& mask = pattern)
    (hmask : mask.getLsbD i = true) : w.getLsbD i = pattern.getLsbD i := by
  rw [← h, BitVec.getLsbD_and, hmask, Bool.and_true]

/-! ### The complement of a byte, as a number -/

theorem byte_not_eq_ofNat (v : Byte) : ~~~v = BitVec.ofNat 8 (0xFF - v.toNat) := by
  bv_omega

/-- A complement gives 0 exactly where every bit was 1. -/
theorem byte_not_eq_zero_iff (v : Byte) : ~~~v = 0 ↔ v = 0xFF#8 := by
  bv_omega

/-! ### The meaning of each instruction, as its shape -/

theorem exec_clrf (f : FileField) (s : State) : exec (.clrf f) s = finish (storeOp f (zResult 0x00#8) s) := rfl

theorem exec_comf (f : FileField) (d : Dest) (s : State) :
    exec (.comf f d) s = finish (byteOp f d (fun v => zResult (~~~v)) s) := rfl

theorem exec_movf (f : FileField) (d : Dest) (s : State) :
    exec (.movf f d) s = finish (byteOp f d (fun v => zResult v) s) := rfl

/-! ### Storing without reading -/

/-- An instruction that stores without reading (R88) completes on every accessible operand: the register write comes
first, its flags are written over it. -/
theorem exec_storesThenSetsFlags {i : Instr} {f : FileField} {out : AluResult} {s : State}
    (hexec : exec i s = finish (storeOp f out s)) (h : accessible s (effAddr s f) = true) :
    ∃ u t, memWrite { s with pc := s.pc + 1#13 } (effAddr s f) out.flags.writesAny out.value = .ok u ∧
      exec i s = .next t ∧ FlagsSet u t out.flags.z out.flags.dc out.flags.c := by
  obtain ⟨u, hwrite, hop⟩ := storeOp_completes (out := out) h
  exact ⟨u, u.setFlags out.flags, hwrite, by rw [hexec, hop, finish_ok], flagsSet_setFlags u out.flags⟩

/-! ### The rows of the opcode table (30_encoding.md R125) -/

/-- CLRF is the half of its opcode with the `d` bit 1. -/
theorem decodeFile_clrf {w : InstrWord} (hop : w.extractLsb' 8 4 = 0x1#4) (hd : w.getLsbD 7 = true) :
    decodeFile w = .ok (.clrf (fieldF w)) := by
  simp [decodeFile, hop, hd]

theorem decodeFile_comf {w : InstrWord} (h : w.extractLsb' 8 4 = 0x9#4) :
    decodeFile w = .ok (.comf (fieldF w) (fieldD w)) := by
  simp [decodeFile, h]

theorem decodeFile_movf {w : InstrWord} (h : w.extractLsb' 8 4 = 0x8#4) :
    decodeFile w = .ok (.movf (fieldF w) (fieldD w)) := by
  simp [decodeFile, h]

theorem decode_clrf {w : InstrWord} (hw : w &&& 0x3F80#14 = 0x0180#14) : decode w = .ok (.clrf (fieldF w)) := by
  have hgroup : w.extractLsb' 12 2 = 0b00#2 := extractLsb'_of_and_eq hw rfl
  have hop : w.extractLsb' 8 4 = 0x1#4 := extractLsb'_of_and_eq hw rfl
  have hd : w.getLsbD 7 = true := getLsbD_of_and_eq hw rfl
  exact (decode_of_group_file hgroup).trans (decodeFile_clrf hop hd)

theorem byteEncoding_comf : ByteEncoding .comf 0x0900#14 := .of rfl fun _ => decodeFile_comf

theorem byteEncoding_movf : ByteEncoding .movf 0x0800#14 := .of rfl fun _ => decodeFile_movf

/-! ### The statements -/

/-- Settles O21: the encoding by the decoder's arm, the rule as a store of 0x00 whose "FlagsZ" result sets Z. -/
theorem clrfStoresZeroAndSetsZ : Obligations.ClrfStoresZeroAndSetsZ :=
  ⟨fun _ => decode_clrf, fun f s => exec_storesThenSetsFlags (exec_clrf f s)⟩

/-- Settles O23: the encodings by the decoder's arms, the rules as byte-oriented instructions marked "FlagsZ", COMF's
result read as a number. -/
theorem complementAndMoveWriteZOnly : Obligations.ComplementAndMoveWriteZOnly :=
  ⟨byteEncoding_comf, byteEncoding_movf,
    .of_zResult_iff exec_comf (fun _ => byte_not_eq_ofNat) (fun _ => byte_not_eq_zero_iff),
    .of_zResult exec_movf⟩

end Sys2Proof.Machine
end

section
/-!
PROOFS. MOVWF and MOVLW of 45_load_store.md (R190, R192). Neither writes a flag of its own, so the register write is the
whole next state of MOVWF, and the load of W that of MOVLW.
-/

namespace Sys2Proof.Machine

/-! ### The meaning of each instruction, as its shape -/

theorem exec_movwf (f : FileField) (s : State) : exec (.movwf f) s = finish (storeOp f (plainResult s.w) s) := rfl

theorem exec_movlw (k : Byte) (s : State) : exec (.movlw k) s = .next (literalOp (plainResult k) s) := rfl

/-! ### Results without flags -/

/-- An instruction that stores without reading (R88) and writes no flag completes on every accessible operand, its store
being the whole next state. -/
theorem exec_storesPlainResult {i : Instr} {f : FileField} {v : Byte} {s : State}
    (hexec : exec i s = finish (storeOp f (plainResult v) s)) (h : accessible s (effAddr s f) = true) :
    ∃ t, memWrite { s with pc := s.pc + 1#13 } (effAddr s f) false v = .ok t ∧ exec i s = .next t := by
  obtain ⟨u, hwrite, hop⟩ := storeOp_completes (out := plainResult v) h
  have hflags : u.setFlags (plainResult v).flags = u := u.setFlags_nothing
  exact ⟨u, hwrite, by rw [hexec, hop, hflags, finish_ok]⟩

/-- A literal instruction that writes no flag changes `pc` and W alone. -/
theorem literalOp_plainResult (v : Byte) (s : State) :
    literalOp (plainResult v) s = { s with pc := s.pc + 1#13, w := v } :=
  State.setFlags_nothing { s with pc := s.pc + 1#13, w := v }

/-! ### The rows of the opcode table (30_encoding.md R125) -/

/-- MOVWF is the half of its opcode with bit 7 set; the other half holds the simple group. -/
theorem decodeFile_movwf {w : InstrWord} (hop : w.extractLsb' 8 4 = 0x0#4) (hbit : w.getLsbD 7 = true) :
    decodeFile w = .ok (.movwf (fieldF w)) := by
  simp [decodeFile, hop, hbit]

/-- Bits 9..8 play no part (R123). -/
theorem decodeLiteral_movlw {w : InstrWord} (hclass : w.extractLsb' 10 2 = 0b00#2) :
    decodeLiteral w = .ok (.movlw (fieldK8 w)) := by
  simp [decodeLiteral, hclass]

theorem decode_movwf {w : InstrWord} (hw : w &&& 0x3F80#14 = 0x0080#14) : decode w = .ok (.movwf (fieldF w)) := by
  have hgroup : w.extractLsb' 12 2 = 0b00#2 := extractLsb'_of_and_eq hw rfl
  have hop : w.extractLsb' 8 4 = 0x0#4 := extractLsb'_of_and_eq hw rfl
  have hbit : w.getLsbD 7 = true := getLsbD_of_and_eq hw rfl
  exact (decode_of_group_file hgroup).trans (decodeFile_movwf hop hbit)

theorem literalEncoding_movlw : LiteralEncoding .movlw 0x3C00#14 0x3000#14 :=
  .of rfl rfl fun _ hw => decodeLiteral_movlw (extractLsb'_of_and_eq hw rfl)

/-! ### The statements -/

/-- Settles O24: the encoding by the decoder's arm, the rule as a store of W without flags of its own. -/
theorem movwfStoresW : Obligations.MovwfStoresW :=
  ⟨fun _ => decode_movwf, fun f s => exec_storesPlainResult (exec_movwf f s)⟩

/-- Settles O25: the encoding by the decoder's arm, the rule as a literal instruction without flags of its own. -/
theorem movlwLoadsTheLiteral : Obligations.MovlwLoadsTheLiteral :=
  ⟨literalEncoding_movlw, fun k s => (exec_movlw k s).trans (congrArg Host.Outcome.next (literalOp_plainResult k s))⟩

end Sys2Proof.Machine
end

section
/-!
PROOFS. NOP, SLEEP and CLRWDT of 47_jumps_system.md (R200, R203, R204). Each completes in every state; the model writes
/TO and /PD bit by bit, the rules are stated with the masks of the whole STATUS byte.
-/

namespace Sys2Proof.Machine

/-! ### Bits of a word under masks -/

/-- Setting a bit is a disjunction with that bit's mask. -/
theorem setBit_true {n : Nat} (v : BitVec n) (i : Nat) : setBit v i true = v ||| BitVec.twoPow n i := rfl

/-- Clearing a bit is a conjunction with the complement of that bit's mask. -/
theorem setBit_false {n : Nat} (v : BitVec n) (i : Nat) : setBit v i false = v &&& ~~~BitVec.twoPow n i := rfl

/-- /TO = 1 and /PD = 0 (R203). -/
theorem setToPd_true_false_status (s : State) :
    (s.setToPd true false).status = (s.status &&& 0xF7#8) ||| 0x10#8 :=
  calc (s.setToPd true false).status
    _ = (s.status ||| 0x10#8) &&& 0xF7#8 := by
      rw [State.setToPd_status, setBit_true, setBit_false]; rfl
    _ = (s.status &&& 0xF7#8) ||| (0x10#8 &&& 0xF7#8) := BitVec.and_or_distrib_right
    _ = (s.status &&& 0xF7#8) ||| 0x10#8 := rfl

/-- /TO = 1 and /PD = 1 (R204). -/
theorem setToPd_true_true_status (s : State) : (s.setToPd true true).status = s.status ||| 0x18#8 :=
  calc (s.setToPd true true).status
    _ = s.status ||| 0x10#8 ||| 0x08#8 := by rw [State.setToPd_status, setBit_true, setBit_true]; rfl
    _ = s.status ||| (0x10#8 ||| 0x08#8) := BitVec.or_assoc ..
    _ = s.status ||| 0x18#8 := rfl

/-! ### The simple group in the decoder (30_encoding.md R126) -/

/-- The simple group is the half of opcode `0x0` with bit 7 clear; the other half is MOVWF. -/
theorem decodeFile_simple {w : InstrWord} (hop : w.extractLsb' 8 4 = 0x0#4) (hbit : w.getLsbD 7 = false) :
    decodeFile w = decodeSimple w := by
  simp [decodeFile, hop, -BitVec.getLsbD_eq_getElem, hbit]

/-- Bits 6..5 of NOP play no part (R129). -/
theorem decodeSimple_nop {w : InstrWord} (h : w.extractLsb' 0 5 = 0b00000#5) : decodeSimple w = .ok .nop := by
  have hlow : (fieldF w).toNat = 0x00 ∨ (fieldF w).toNat = 0x20 ∨ (fieldF w).toNat = 0x40 ∨
      (fieldF w).toNat = 0x60 := by
    have h5 : w.toNat % 2 ^ 5 = 0 := by
      rw [← Nat.shiftRight_zero (n := w.toNat), ← BitVec.extractLsb'_toNat, h]; rfl
    have h7 : (fieldF w).toNat = w.toNat % 2 ^ 7 := BitVec.extractLsb'_toNat 0 7 w
    omega
  rw [decodeSimple, if_pos hlow]

/-! ### The rows of the opcode table (30_encoding.md R125) -/

/-- The mask of NOP's row leaves out bits 6..5. -/
theorem decode_nop {w : InstrWord} (hw : w &&& 0x3F9F#14 = 0x0000#14) : decode w = .ok .nop := by
  have hgroup : w.extractLsb' 12 2 = 0b00#2 := extractLsb'_of_and_eq hw rfl
  have hop : w.extractLsb' 8 4 = 0x0#4 := extractLsb'_of_and_eq hw rfl
  have hbit : w.getLsbD 7 = false := getLsbD_of_and_eq hw rfl
  have hlow : w.extractLsb' 0 5 = 0b00000#5 := extractLsb'_of_and_eq hw rfl
  calc decode w
    _ = decodeFile w := decode_of_group_file hgroup
    _ = decodeSimple w := decodeFile_simple hop hbit
    _ = .ok .nop := decodeSimple_nop hlow

theorem wordEncoding_sleep : WordEncoding .sleep 0x0063#14 := rfl

theorem wordEncoding_clrwdt : WordEncoding .clrwdt 0x0064#14 := rfl

/-! ### The meaning of each instruction -/

theorem exec_nop (s : State) : exec .nop s = .next { s with pc := s.pc + 1#13 } := rfl

/-- SLEEP, with STATUS as the model's write of /TO and /PD leaves it. -/
theorem exec_sleep (s : State) :
    exec .sleep s =
      .next { s with pc := s.pc + 1#13, wdt := 0, wdtPre := 0, sleeping := true,
                     status := (s.setToPd true false).status } := rfl

/-- CLRWDT, with STATUS as the model's write of /TO and /PD leaves it. -/
theorem exec_clrwdt (s : State) :
    exec .clrwdt s =
      .next { s with pc := s.pc + 1#13, wdt := 0, wdtPre := 0, status := (s.setToPd true true).status } := rfl

/-! ### The statements -/

/-- Settles O28: the encoding by the decoder's simple group, the rule as the model's own step of `pc`. -/
theorem nopOnlyAdvances : Obligations.NopOnlyAdvances :=
  ⟨fun _ => decode_nop, exec_nop⟩

/-- Settles O29: the encodings by evaluation of the decoder at the one word of each, the rules by the masks that the
writes of /TO and /PD amount to. -/
theorem sleepAndClrwdtWriteToAndPd : Obligations.SleepAndClrwdtWriteToAndPd := by
  refine ⟨wordEncoding_sleep, wordEncoding_clrwdt, fun s => ⟨?_, ?_⟩⟩
  · rw [exec_sleep, setToPd_true_false_status]
  · rw [exec_clrwdt, setToPd_true_true_status]

end Sys2Proof.Machine
end

section
/-!
PROOFS. BTFSC and BTFSS of 48_skips.md (R218, R219). Both are the one bit test of the model with either wanted value; it
writes nothing, so the two steps of `pc` are the whole difference between the next state and the state.
-/

namespace Sys2Proof.Machine

/-! ### The skip of an instruction that writes nothing -/

/-- The skip adds a second step of `pc` to the implicit one (R215). -/
theorem skipIf_advance (skip : Bool) (s : State) :
    skipIf skip s.advance = { s with pc := s.pc + if skip then 2#13 else 1#13 } := by
  cases skip with
  | false => rfl
  | true =>
    have hpc : s.pc + 1#13 + 1#13 = s.pc + 2#13 := BitVec.add_assoc ..
    exact congrArg (fun pc => { s with pc := pc }) hpc

theorem bitSkipOp_of_memRead {f : FileField} {s : State} {v : Byte} (hread : memRead s (effAddr s f) = .ok v)
    (b : BitIndex) (want : Bool) :
    bitSkipOp f b want s = .ok { s with pc := s.pc + if v.getLsbD b.toNat = want then 2#13 else 1#13 } := by
  simp only [bitSkipOp, hread, skipIf_advance, beq_iff_eq]

/-! ### The meaning of each instruction -/

theorem exec_btfsc (f : FileField) (b : BitIndex) (s : State) :
    exec (.btfsc f b) s = finish (bitSkipOp f b false s) := rfl

theorem exec_btfss (f : FileField) (b : BitIndex) (s : State) :
    exec (.btfss f b) s = finish (bitSkipOp f b true s) := rfl

/-- BTFSC skips on a clear bit: the choice of R218 with its two answers exchanged. -/
theorem exec_btfsc_of_memRead {f : FileField} {s : State} {v : Byte} (hread : memRead s (effAddr s f) = .ok v)
    (b : BitIndex) :
    exec (.btfsc f b) s = .next { s with pc := s.pc + if v.getLsbD b.toNat then 1#13 else 2#13 } := by
  rw [exec_btfsc, bitSkipOp_of_memRead hread, finish_ok]
  simp only [← Bool.not_eq_true, ite_not]

theorem exec_btfss_of_memRead {f : FileField} {s : State} {v : Byte} (hread : memRead s (effAddr s f) = .ok v)
    (b : BitIndex) :
    exec (.btfss f b) s = .next { s with pc := s.pc + if v.getLsbD b.toNat then 2#13 else 1#13 } := by
  rw [exec_btfss, bitSkipOp_of_memRead hread, finish_ok]

/-! ### The rows of the opcode table (30_encoding.md R125) -/

theorem decodeBit_btfsc {w : InstrWord} (h : w.extractLsb' 10 2 = 0b10#2) :
    decodeBit w = .ok (.btfsc (fieldF w) (fieldB w)) := by
  simp [decodeBit, h]

theorem decodeBit_btfss {w : InstrWord} (h : w.extractLsb' 10 2 = 0b11#2) :
    decodeBit w = .ok (.btfss (fieldF w) (fieldB w)) := by
  simp [decodeBit, h]

theorem bitEncoding_btfsc : BitEncoding .btfsc 0x1800#14 := .of rfl fun _ => decodeBit_btfsc

theorem bitEncoding_btfss : BitEncoding .btfss 0x1C00#14 := .of rfl fun _ => decodeBit_btfss

/-! ### The statement -/

/-- Settles O32: the encodings by the decoder's arms, the rules from the byte that an accessible operand reads. -/
theorem bitTestsSkip : Obligations.BitTestsSkip := by
  refine ⟨bitEncoding_btfsc, bitEncoding_btfss, fun f b s h => ?_⟩
  obtain ⟨v, hread⟩ := memRead_of_accessible h
  exact ⟨v, hread, exec_btfsc_of_memRead hread b, exec_btfss_of_memRead hread b⟩

end Sys2Proof.Machine
end

section
/-!
PROOFS. What holds along every run: program memory and the parameters (10_state.md R43, 00_scope.md R4), and the
invariant `State.Inv`, kept by each operation in turn (register write, instruction, boundary, step).
-/

namespace Sys2Proof.Machine

/-! ### A skip as a change of `pc` alone -/

theorem skipIf_eq (skip : Bool) (s : State) : skipIf skip s = { s with pc := s.pc + if skip then 1#13 else 0#13 } := by
  cases skip with
  | true => rfl
  | false => exact congrArg (fun pc => { s with pc := pc }) (BitVec.add_zero s.pc).symm

/-! ### What no instruction changes -/

/-- The state no instruction writes: the EEPROM array, the program, the pins and the model's own fields. -/
structure ExecKeeps (s t : State) : Prop where
  eeprom : t.eeprom = s.eeprom
  prog : t.prog = s.prog
  cfg : t.cfg = s.cfg
  pinsA : t.pinsA = s.pinsA
  pinsB : t.pinsB = s.pinsB
  tmr0Pre : t.tmr0Pre = s.tmr0Pre
  env : t.env = s.env
  tick : t.tick = s.tick
  deferred : t.deferred = s.deferred

theorem exec_keeps {i : Instr} {s t : State} (h : exec i s = .next t) : ExecKeeps s t := by
  cases exec_cases h with
  | store a reg v fl u skip dst names writes =>
    have hframe := writeReg_frame writes
    rw [skipIf_eq]
    exact ⟨hframe.eeprom, hframe.prog, hframe.cfg, hframe.pinsA, hframe.pinsB, hframe.tmr0Pre, hframe.env, hframe.tick,
      hframe.deferred⟩
  | result => rw [skipIf_eq]; constructor <;> rfl
  | move => rw [skipIf_eq]; constructor <;> rfl
  | _ => constructor <;> rfl

/-- A step that gives a next state keeps the program and the parameters. -/
theorem step_prog_cfg {s t : State} (h : step s = .next t) : t.prog = s.prog ∧ t.cfg = s.cfg := by
  cases step_cases h with
  | reset cause => exact ⟨openBoundary_prog s, openBoundary_cfg s⟩
  | idle => exact ⟨openBoundary_prog s, openBoundary_cfg s⟩
  | interrupt _ _ takes =>
    obtain ⟨-, rfl⟩ := takeInterrupt_cases takes
    exact ⟨openBoundary_prog s, openBoundary_cfg s⟩
  | wake byWatchdog _ i _ _ _ _ runs =>
    exact ⟨(exec_keeps runs).prog.trans (openBoundary_prog s), (exec_keeps runs).cfg.trans (openBoundary_cfg s)⟩
  | runDeferred _ i _ _ _ _ runs =>
    exact ⟨(exec_keeps runs).prog.trans (openBoundary_prog s), (exec_keeps runs).cfg.trans (openBoundary_cfg s)⟩
  | run _ i _ _ _ _ runs =>
    exact ⟨(exec_keeps runs).prog.trans (openBoundary_prog s), (exec_keeps runs).cfg.trans (openBoundary_cfg s)⟩

/-- Settles O46, by induction on the number of steps. -/
theorem programIsConstantOverEveryRun : Obligations.ProgramIsConstantOverEveryRun := by
  intro n
  induction n with
  | zero => intro s t h; cases h; exact ⟨rfl, rfl⟩
  | succ n ih =>
    intro s t h
    obtain ⟨u, hstep, hrun⟩ := run_succ Sys2Proof.core h
    obtain ⟨hprog, hcfg⟩ := step_prog_cfg hstep
    obtain ⟨hprog', hcfg'⟩ := ih u t hrun
    exact ⟨hprog'.trans hprog, hcfg'.trans hcfg⟩

/-! ### The invariant under the operations of an instruction -/

theorem State.Inv.advance {s : State} (h : s.Inv) : s.advance.Inv := { h with }

theorem State.Inv.skipIf {s : State} (h : s.Inv) (skip : Bool) : (skipIf skip s).Inv := by
  rw [skipIf_eq]; exact { h with }

/-- While the core is awake STATUS may hold anything. -/
theorem State.Inv.setStatus {s : State} (h : s.Inv) (awake : s.sleeping = false) (v : Byte) :
    State.Inv { s with status := v } :=
  { h with asleep := fun hs => absurd (awake.symm.trans hs) Bool.false_ne_true }

/-- A store to the data memory stays in canonical form and inside the file map (R41). -/
theorem State.Inv.storeData {s : State} (h : s.Inv) {r : FileField} (hr : isDataAddr s.cfg r = true) (v : Byte) :
    State.Inv { s with data := s.data.write r.toNat v } :=
  { h with
    dataWf := Memory.wf_write h.dataWf r.isLt v
    dataMapped := fun cell hc => by
      rcases Memory.mem_write hc with hc | ⟨haddr, -, -⟩
      · exact h.dataMapped cell hc
      · rw [haddr, BitVec.ofNat_toNat, BitVec.setWidth_eq]; exact hr }

/-- A write to EECON1 leaves WR at 1 exactly while a write is in progress, and RD at 0 (R40). -/
theorem State.Inv.writeEecon1 {s : State} (h : s.Inv) (device : s.cfg.eepromDevice = true) (v : Byte) :
    (writeEecon1 s v).Inv :=
  { h with
    eeBusy := by
      have hbusy := h.eeBusy
      simp only [Machine.writeEecon1]
      cases hstart : v.getLsbD 1 && s.eecon1.getLsbD 2 && (s.eeUnlock == .unlocked) && !s.eecon1.getLsbD 1 <;>
        simp_all
    eeRead := by simp [Machine.writeEecon1]
    eeAbsent := fun absent => nomatch device.symm.trans absent }

/-- Every register write keeps the invariant of an awake core. -/
theorem State.Inv.writeReg {s t : State} (h : s.Inv) (awake : s.sleeping = false) {fl : Bool} {v : Byte}
    {a : FileAddr} {reg : FileReg} (names : fileReg s.cfg a = .ok reg) (writes : writeReg s fl v reg = .ok t) :
    t.Inv := by
  cases reg
  case status => cases writes; exact h.setStatus awake _
  case data r => cases writes; exact h.storeData (fileReg_data names).2 v
  case eecon1 =>
    simp only [Machine.writeReg] at writes
    split at writes
    · next device => cases writes; exact h.writeEecon1 device v
    · cases writes
  case eecon2 =>
    simp only [Machine.writeReg] at writes
    split at writes
    · next device => cases writes; exact { h with eeAbsent := fun absent => nomatch device.symm.trans absent }
    · cases writes
  all_goals (cases writes; exact { h with })

/-- Every instruction of an awake core keeps the invariant. -/
theorem State.Inv.exec {i : Instr} {s t : State} (h : s.Inv) (awake : s.sleeping = false)
    (hexec : exec i s = .next t) : t.Inv := by
  cases exec_cases hexec with
  | store a reg v fl u skip dst names writes =>
    have awake' : u.sleeping = false := (writeReg_frame writes).sleeping.trans awake
    exact ((h.advance.writeReg awake names writes).setStatus awake' _).skipIf skip
  | result v fl skip =>
    have hw : State.Inv { s.advance with w := v } := { h with }
    exact (hw.setStatus awake _).skipIf skip
  | move skip => exact h.advance.skipIf skip
  | pop a rest w intcon is dst top =>
    have hbound := h.stackBound
    rw [top, List.length_cons] at hbound
    exact { h with stackBound := Nat.le_of_succ_le hbound }
  | call k is room => exact { h with stackBound := Nat.lt_of_le_of_ne h.stackBound room }
  | sleep => exact { h with asleep := fun _ => ⟨State.setToPd_toN s true false, State.setToPd_pdN s true false⟩ }
  | clrwdt =>
    have hwdt : State.Inv { s.advance with wdt := 0, wdtPre := 0 } := { h with }
    exact hwdt.setStatus awake _
  | _ => exact { h with }

/-! ### The invariant under the boundary and under a step -/

/-- The end of an EEPROM write keeps the EEPROM canonical and its control state consistent (R40). -/
theorem State.Inv.completeEepromWrite {s : State} (h : s.Inv) (device : s.cfg.eepromDevice = true) :
    (completeEepromWrite s).Inv :=
  { h with
    eepromWf := by
      cases hpending : s.eePending with
      | none => simpa [Machine.completeEepromWrite, hpending] using h.eepromWf
      | some p => simpa [Machine.completeEepromWrite, hpending] using Memory.wf_write h.eepromWf p.1.isLt p.2
    eeBusy := by simp [Machine.completeEepromWrite]
    eeRead := by simpa [Machine.completeEepromWrite] using h.eeRead
    eeAbsent := fun absent => nomatch device.symm.trans absent }

theorem State.Inv.raiseFlags {s : State} (h : s.Inv) (b : Boundary) : (raiseFlags b s).Inv := by
  have hflags (v : Byte) : State.Inv { s with intcon := v } := { h with }
  unfold Machine.raiseFlags
  split
  · next hc => exact (hflags _).completeEepromWrite (Bool.and_eq_true_iff.mp hc).2
  · exact hflags _

theorem State.Inv.openBoundary {s : State} (h : s.Inv) : (openBoundary s).Inv :=
  { h.raiseFlags s.boundary with }

theorem State.Inv.resetAction {s : State} (h : s.Inv) (cause : ResetCause) : (resetAction cause s).Inv :=
  { h with
    stackBound := Nat.zero_le _
    deferBound := Nat.zero_le _
    asleep := nofun
    eeBusy := BitVec.getLsbD_zero.symm
    eeRead := BitVec.getLsbD_zero
    eeAbsent := fun _ => ⟨rfl, rfl, rfl⟩ }

theorem State.Inv.endDeferral {s : State} (h : s.Inv) : s.endDeferral.Inv :=
  { h with deferBound := Nat.zero_le _ }

theorem State.Inv.countDeferral {s : State} (h : s.Inv) (room : s.deferred < s.cfg.intDeferMax) :
    s.countDeferral.Inv :=
  { h with deferBound := room }

theorem State.Inv.wakeUp {s : State} (h : s.Inv) (byWatchdog : Bool) : (wakeUp byWatchdog s).Inv :=
  { h with asleep := nofun }

theorem State.Inv.takeInterrupt {s t : State} (h : s.Inv) (takes : takeInterrupt s = .ok t) : t.Inv := by
  obtain ⟨room, rfl⟩ := takeInterrupt_cases takes
  exact { h with stackBound := Nat.lt_of_le_of_ne h.stackBound room }

/-- Settles O44: the memories are empty and every other clause evaluates. -/
theorem invariantHoldsAtReset : Obligations.InvariantHoldsAtReset where
  dataWf := rfl
  dataMapped := nofun
  eepromWf := rfl
  progWf := rfl
  stackBound := Nat.zero_le _
  deferBound := Nat.zero_le _
  asleep := nofun
  eeBusy := rfl
  eeRead := rfl
  eeAbsent := fun _ => ⟨rfl, rfl, rfl⟩

/-- Settles O45, by the forms of a step: the boundary keeps the invariant, and so does what the core does after it. -/
theorem everyStepKeepsTheInvariant : Obligations.EveryStepKeepsTheInvariant := by
  intro s t h hstep
  have hopen := h.openBoundary
  have hkind := stepKind_spec s.boundary (openBoundary s)
  cases step_cases hstep with
  | reset cause => exact hopen.resetAction cause
  | idle => exact hopen
  | interrupt _ _ takes => exact hopen.endDeferral.takeInterrupt takes
  | wake byWatchdog _ i _ _ _ _ runs => exact (hopen.wakeUp byWatchdog).exec rfl runs
  | runDeferred _ i _ kind _ _ runs =>
    rw [kind] at hkind
    obtain ⟨-, awake, -, -, -, room⟩ := hkind
    exact (hopen.countDeferral room).exec awake runs
  | run _ i _ kind _ _ runs =>
    rw [kind] at hkind
    obtain ⟨-, awake, -, -⟩ := hkind
    exact hopen.endDeferral.exec awake runs

end Sys2Proof.Machine
end

section
/-!
PROOFS. The decoder and the encoder as wholes (30_encoding.md): the rows of the opcode table that the sections above do
not need, the round trip, and the words no instruction is assigned to (R128).
-/

namespace Sys2Proof.Machine

/-! ### The remaining rows of the opcode table (R125) -/

theorem decodeFile_subwf {w : InstrWord} (h : w.extractLsb' 8 4 = 0x2#4) :
    decodeFile w = .ok (.subwf (fieldF w) (fieldD w)) := by
  simp [decodeFile, h]

theorem decodeFile_addwf {w : InstrWord} (h : w.extractLsb' 8 4 = 0x7#4) :
    decodeFile w = .ok (.addwf (fieldF w) (fieldD w)) := by
  simp [decodeFile, h]

theorem decodeFile_decfsz {w : InstrWord} (h : w.extractLsb' 8 4 = 0xB#4) :
    decodeFile w = .ok (.decfsz (fieldF w) (fieldD w)) := by
  simp [decodeFile, h]

theorem decodeFile_incfsz {w : InstrWord} (h : w.extractLsb' 8 4 = 0xF#4) :
    decodeFile w = .ok (.incfsz (fieldF w) (fieldD w)) := by
  simp [decodeFile, h]

/-- CLRW is the half of its opcode with the `d` bit 0, whatever the seven bits below it (R123). -/
theorem decodeFile_clrw {w : InstrWord} (hop : w.extractLsb' 8 4 = 0x1#4) (hd : w.getLsbD 7 = false) :
    decodeFile w = .ok .clrw := by
  simp [decodeFile, hop, -BitVec.getLsbD_eq_getElem, hd]

theorem decodeLiteral_retlw {w : InstrWord} (hclass : w.extractLsb' 10 2 = 0b01#2) :
    decodeLiteral w = .ok (.retlw (fieldK8 w)) := by
  simp [decodeLiteral, hclass]

theorem decodeLiteral_sublw {w : InstrWord} (hclass : w.extractLsb' 10 2 = 0b11#2) (hbit : w.getLsbD 9 = false) :
    decodeLiteral w = .ok (.sublw (fieldK8 w)) := by
  simp [decodeLiteral, hclass, -BitVec.getLsbD_eq_getElem, hbit]

theorem decodeLiteral_addlw {w : InstrWord} (hclass : w.extractLsb' 10 2 = 0b11#2) (hbit : w.getLsbD 9 = true) :
    decodeLiteral w = .ok (.addlw (fieldK8 w)) := by
  simp [decodeLiteral, hclass, -BitVec.getLsbD_eq_getElem, hbit]

theorem byteEncoding_subwf : ByteEncoding .subwf 0x0200#14 := .of rfl fun _ => decodeFile_subwf

theorem byteEncoding_addwf : ByteEncoding .addwf 0x0700#14 := .of rfl fun _ => decodeFile_addwf

theorem byteEncoding_decfsz : ByteEncoding .decfsz 0x0B00#14 := .of rfl fun _ => decodeFile_decfsz

theorem byteEncoding_incfsz : ByteEncoding .incfsz 0x0F00#14 := .of rfl fun _ => decodeFile_incfsz

theorem literalEncoding_retlw : LiteralEncoding .retlw 0x3C00#14 0x3400#14 :=
  .of rfl rfl fun _ hw => decodeLiteral_retlw (extractLsb'_of_and_eq hw rfl)

theorem literalEncoding_sublw : LiteralEncoding .sublw 0x3E00#14 0x3C00#14 :=
  .of rfl rfl fun _ hw => decodeLiteral_sublw (extractLsb'_of_and_eq hw rfl) (getLsbD_of_and_eq hw rfl)

theorem literalEncoding_addlw : LiteralEncoding .addlw 0x3E00#14 0x3E00#14 :=
  .of rfl rfl fun _ hw => decodeLiteral_addlw (extractLsb'_of_and_eq hw rfl) (getLsbD_of_and_eq hw rfl)

/-- The group `10`: CALL and GOTO. -/
theorem decode_of_group_jump {w : InstrWord} (h : w.extractLsb' 12 2 = 0b10#2) : decode w = decodeJump w := by
  simp [decode, h]

theorem decode_call {w : InstrWord} (hw : w &&& 0x3800#14 = 0x2000#14) : decode w = .ok (.call (fieldK11 w)) := by
  have hgroup : w.extractLsb' 12 2 = 0b10#2 := extractLsb'_of_and_eq hw rfl
  have hbit : w.getLsbD 11 = false := getLsbD_of_and_eq hw rfl
  rw [decode_of_group_jump hgroup, decodeJump, hbit]
  rfl

theorem decode_goto {w : InstrWord} (hw : w &&& 0x3800#14 = 0x2800#14) : decode w = .ok (.goto (fieldK11 w)) := by
  have hgroup : w.extractLsb' 12 2 = 0b10#2 := extractLsb'_of_and_eq hw rfl
  have hbit : w.getLsbD 11 = true := getLsbD_of_and_eq hw rfl
  rw [decode_of_group_jump hgroup, decodeJump, hbit]
  rfl

theorem decode_clrw {w : InstrWord} (hw : w &&& 0x3F80#14 = 0x0100#14) : decode w = .ok .clrw := by
  have hgroup : w.extractLsb' 12 2 = 0b00#2 := extractLsb'_of_and_eq hw rfl
  have hop : w.extractLsb' 8 4 = 0x1#4 := extractLsb'_of_and_eq hw rfl
  have hd : w.getLsbD 7 = false := getLsbD_of_and_eq hw rfl
  exact (decode_of_group_file hgroup).trans (decodeFile_clrw hop hd)

/-! ### The fields of an encoded word -/

/-- The lowest field of a word is what stands last in it. -/
theorem fieldF_append (op : BitVec 7) (f : FileField) : fieldF (op ++ f) = f :=
  BitVec.extractLsb'_append_eq_right

theorem fieldK8_append (op : BitVec 6) (k : Byte) : fieldK8 (op ++ k) = k :=
  BitVec.extractLsb'_append_eq_right

theorem fieldK11_append (op : BitVec 3) (k : BitVec 11) : fieldK11 (op ++ k) = k :=
  BitVec.extractLsb'_append_eq_right

theorem fieldD_append (op : BitVec 6) (d : Dest) (f : FileField) : fieldD (op ++ d.bit ++ f) = d := by
  have hbit : (op ++ d.bit ++ f).getLsbD 7 = d.bit.getLsbD 0 :=
    BitVec.getLsbD_append.trans BitVec.getLsbD_append
  rw [fieldD, hbit]
  cases d <;> rfl

theorem fieldB_append (op : BitVec 4) (b : BitIndex) (f : FileField) : fieldB (op ++ b ++ f) = b :=
  (BitVec.extractLsb'_append_eq_of_le (Nat.le_refl 7)).trans BitVec.extractLsb'_append_eq_right

/-- A byte-oriented row decodes the word made of an opcode that fits it and the fields d and f. -/
theorem ByteEncoding.decode_append {mk : FileField → Dest → Instr} {pattern : InstrWord} (h : ByteEncoding mk pattern)
    {op : BitVec 6} {d : Dest} {f : FileField} (hrow : (op ++ d.bit ++ f) &&& 0x3F00#14 = pattern) :
    decode (op ++ d.bit ++ f) = .ok (mk f d) := by
  have hdec : decode (op ++ d.bit ++ f) = .ok (mk (fieldF (op ++ d.bit ++ f)) (fieldD (op ++ d.bit ++ f))) := h _ hrow
  have hf : fieldF (op ++ d.bit ++ f) = f := fieldF_append (op ++ d.bit) f
  rw [hdec, hf, fieldD_append]

/-- A bit-oriented row likewise, with the fields b and f. -/
theorem BitEncoding.decode_append {mk : FileField → BitIndex → Instr} {pattern : InstrWord} (h : BitEncoding mk pattern)
    {op : BitVec 4} {b : BitIndex} {f : FileField} (hrow : (op ++ b ++ f) &&& 0x3C00#14 = pattern) :
    decode (op ++ b ++ f) = .ok (mk f b) := by
  have hdec : decode (op ++ b ++ f) = .ok (mk (fieldF (op ++ b ++ f)) (fieldB (op ++ b ++ f))) := h _ hrow
  have hf : fieldF (op ++ b ++ f) = f := fieldF_append (op ++ b) f
  rw [hdec, hf, fieldB_append]

/-- A literal row likewise, with the field k. -/
theorem LiteralEncoding.decode_append {mk : Byte → Instr} {mask pattern : InstrWord}
    (h : LiteralEncoding mk mask pattern) {op : BitVec 6} {k : Byte} (hrow : (op ++ k) &&& mask = pattern) : decode (op ++ k) = .ok (mk k) := by
  have hdec : decode (op ++ k) = .ok (mk (fieldK8 (op ++ k))) := h _ hrow
  rw [hdec, fieldK8_append]

/-! ### The round trip -/

/-- Settles O1: the word of each instruction fits its row (Laws/PerInstr.lean), the row decodes it, and its fields are
the operands. -/
theorem decodeEncodeRoundTrip : Obligations.DecodeEncodeRoundTrip := by
  intro i hwf
  cases i with
  | nop | ret | retfie | option | sleep | clrwdt | clrw => rfl
  | tris f =>
    have hf : f = 5#3 ∨ f = 6#3 ∨ f = 7#3 := by
      have hlow : 5 ≤ f.toNat := of_decide_eq_true hwf
      bv_omega
    rcases hf with rfl | rfl | rfl <;> rfl
  | movwf f =>
    exact (decode_movwf (Laws.FitsRow.movwf f rfl)).trans
      (congrArg (Except.ok ∘ Instr.movwf) (fieldF_append _ f))
  | clrf f =>
    exact (decode_clrf (Laws.FitsRow.clrf f rfl)).trans
      (congrArg (Except.ok ∘ Instr.clrf) (fieldF_append _ f))
  | subwf f d => exact byteEncoding_subwf.decode_append (Laws.FitsRow.subwf f d rfl)
  | decf f d => exact byteEncoding_decf.decode_append (Laws.FitsRow.decf f d rfl)
  | iorwf f d => exact byteEncoding_iorwf.decode_append (Laws.FitsRow.iorwf f d rfl)
  | andwf f d => exact byteEncoding_andwf.decode_append (Laws.FitsRow.andwf f d rfl)
  | xorwf f d => exact byteEncoding_xorwf.decode_append (Laws.FitsRow.xorwf f d rfl)
  | addwf f d => exact byteEncoding_addwf.decode_append (Laws.FitsRow.addwf f d rfl)
  | movf f d => exact byteEncoding_movf.decode_append (Laws.FitsRow.movf f d rfl)
  | comf f d => exact byteEncoding_comf.decode_append (Laws.FitsRow.comf f d rfl)
  | incf f d => exact byteEncoding_incf.decode_append (Laws.FitsRow.incf f d rfl)
  | decfsz f d => exact byteEncoding_decfsz.decode_append (Laws.FitsRow.decfsz f d rfl)
  | rrf f d => exact byteEncoding_rrf.decode_append (Laws.FitsRow.rrf f d rfl)
  | rlf f d => exact byteEncoding_rlf.decode_append (Laws.FitsRow.rlf f d rfl)
  | swapf f d => exact byteEncoding_swapf.decode_append (Laws.FitsRow.swapf f d rfl)
  | incfsz f d => exact byteEncoding_incfsz.decode_append (Laws.FitsRow.incfsz f d rfl)
  | bcf f b => exact bitEncoding_bcf.decode_append (Laws.FitsRow.bcf f b rfl)
  | bsf f b => exact bitEncoding_bsf.decode_append (Laws.FitsRow.bsf f b rfl)
  | btfsc f b => exact bitEncoding_btfsc.decode_append (Laws.FitsRow.btfsc f b rfl)
  | btfss f b => exact bitEncoding_btfss.decode_append (Laws.FitsRow.btfss f b rfl)
  | call k =>
    exact (decode_call (Laws.FitsRow.call k rfl)).trans
      (congrArg (Except.ok ∘ Instr.call) (fieldK11_append _ k))
  | goto k =>
    exact (decode_goto (Laws.FitsRow.goto k rfl)).trans
      (congrArg (Except.ok ∘ Instr.goto) (fieldK11_append _ k))
  | movlw k => exact literalEncoding_movlw.decode_append (Laws.FitsRow.movlw k rfl)
  | retlw k => exact literalEncoding_retlw.decode_append (Laws.FitsRow.retlw k rfl)
  | iorlw k => exact literalEncoding_iorlw.decode_append (Laws.FitsRow.iorlw k rfl)
  | andlw k => exact literalEncoding_andlw.decode_append (Laws.FitsRow.andlw k rfl)
  | xorlw k => exact literalEncoding_xorlw.decode_append (Laws.FitsRow.xorlw k rfl)
  | sublw k => exact literalEncoding_sublw.decode_append (Laws.FitsRow.sublw k rfl)
  | addlw k => exact literalEncoding_addlw.decode_append (Laws.FitsRow.addlw k rfl)

/-! ### The unassigned words (R128) -/

/-- The fields the decoder looks at, as numbers. -/
theorem extractLsb'_toNat_div {n : Nat} (w : BitVec n) (start len : Nat) :
    (w.extractLsb' start len).toNat = w.toNat / 2 ^ start % 2 ^ len := by
  rw [BitVec.extractLsb'_toNat, Nat.shiftRight_eq_div_pow]

theorem getLsbD_eq_false_iff {n : Nat} (w : BitVec n) (i : Nat) : w.getLsbD i = false ↔ w.toNat / 2 ^ i % 2 = 0 := by
  rw [BitVec.getLsbD, Nat.testBit_eq_decide_div_mod_eq, decide_eq_false_iff_not]
  omega

/-- The simple group rejects what it does not list (R129). -/
theorem decodeSimple_eq_error_iff (w : InstrWord) : decodeSimple w = .error .unassignedEncoding ↔
    (0x01 ≤ (fieldF w).toNat ∧ (fieldF w).toNat ≤ 0x07) ∨ (0x0A ≤ (fieldF w).toNat ∧ (fieldF w).toNat ≤ 0x1F) ∨
    (0x21 ≤ (fieldF w).toNat ∧ (fieldF w).toNat ≤ 0x3F) ∨ (0x41 ≤ (fieldF w).toNat ∧ (fieldF w).toNat ≤ 0x5F) ∨
    (fieldF w).toNat = 0x61 ∨ 0x68 ≤ (fieldF w).toNat := by
  simp only [decodeSimple]
  generalize (fieldF w).toNat = low
  split_ifs <;> simp only [true_iff, false_iff] <;> omega

/-- Of the file group the simple group alone rejects words. -/
theorem decodeFile_eq_error_iff (w : InstrWord) : decodeFile w = .error .unassignedEncoding ↔
    (w.extractLsb' 8 4).toNat = 0 ∧ w.getLsbD 7 = false ∧ decodeSimple w = .error .unassignedEncoding := by
  unfold decodeFile
  split
  case h_1 hop => cases hbit : w.getLsbD 7 <;> simp [hop]
  case h_2 hop => cases hbit : w.getLsbD 7 <;> simp [hop]
  all_goals simp_all

theorem decodeBit_ne_error (w : InstrWord) : decodeBit w ≠ .error .unassignedEncoding := by
  unfold decodeBit
  split <;> nofun

theorem decodeJump_ne_error (w : InstrWord) : decodeJump w ≠ .error .unassignedEncoding := by
  unfold decodeJump
  split <;> nofun

/-- Of the literal group the block 0x3Bxx alone is unassigned. -/
theorem decodeLiteral_eq_error_iff (w : InstrWord) : decodeLiteral w = .error .unassignedEncoding ↔
    (w.extractLsb' 10 2).toNat = 2 ∧ (w.extractLsb' 8 2).toNat = 3 := by
  have hop : (w.extractLsb' 8 2).toNat < 4 := (w.extractLsb' 8 2).isLt
  unfold decodeLiteral
  split
  case h_3 hclass =>
    split
    case h_4 h0 h1 h2 =>
      rw [imp_false] at h0 h1 h2
      simp only [hclass, true_and, true_iff]
      omega
    all_goals simp_all
  case h_4 => split <;> simp_all
  all_goals simp_all

/-- The rejected words by the block they stand in. -/
theorem decode_eq_error_iff (w : InstrWord) : decode w = .error .unassignedEncoding ↔
    (w.toNat < 0x80 ∧ decodeSimple w = .error .unassignedEncoding) ∨ w.toNat / 0x100 = 0x3B := by
  have hgroup : (w.extractLsb' 12 2).toNat = w.toNat / 0x1000 % 4 := extractLsb'_toNat_div w 12 2
  have hop : (w.extractLsb' 8 4).toNat = w.toNat / 0x100 % 0x10 := extractLsb'_toNat_div w 8 4
  have hbit : w.getLsbD 7 = false ↔ w.toNat / 0x80 % 2 = 0 := getLsbD_eq_false_iff w 7
  have hclass : (w.extractLsb' 10 2).toNat = w.toNat / 0x400 % 4 := extractLsb'_toNat_div w 10 2
  have hlit : (w.extractLsb' 8 2).toNat = w.toNat / 0x100 % 4 := extractLsb'_toNat_div w 8 2
  have hw : w.toNat < 0x4000 := w.isLt
  unfold decode
  split
  case h_1 h =>
    rw [decodeFile_eq_error_iff, hop, hbit]
    constructor
    · rintro ⟨h8, h7, hsimple⟩
      exact Or.inl ⟨by omega, hsimple⟩
    · rintro (⟨hlt, hsimple⟩ | hblock)
      · exact ⟨by omega, by omega, hsimple⟩
      · omega
  case h_2 h => simp only [decodeBit_ne_error, false_iff]; omega
  case h_3 h => simp only [decodeJump_ne_error, false_iff]; omega
  case h_4 h0 h1 h2 =>
    rw [hgroup, imp_false] at h0 h1 h2
    have hhigh : ¬w.toNat < 0x80 := by omega
    rw [decodeLiteral_eq_error_iff, hclass, hlit]
    simp only [hhigh, false_and, false_or]
    omega

/-- Fetching and executing a word the decoder rejects is refused, in every state (decision D17). -/
theorem fetchExec_of_decode_error {s : State} {w : InstrWord} (hread : s.prog.read s.pc.toNat = some w)
    (hdec : decode w = .error .unassignedEncoding) : fetchExec s = .refused .unassignedEncoding := by
  simp only [fetchExec, fetch, hread, hdec]

/-- Settles O2: the decoder's groups leave the simple group and the block 0x3Bxx. -/
theorem unassignedWordsAreExactlyTheListed : Obligations.UnassignedWordsAreExactlyTheListed := by
  refine ⟨fun w => ?_, fun s w => fetchExec_of_decode_error⟩
  have hlow : (fieldF w).toNat = w.toNat % 0x80 := BitVec.extractLsb'_toNat 0 7 w
  rw [decode_eq_error_iff, decodeSimple_eq_error_iff, hlow]
  omega

/-- Settles O3, by evaluation of the decoder at each word. -/
theorem codeListWordsDecode : Obligations.CodeListWordsDecode :=
  ⟨rfl, rfl, rfl, rfl, rfl, rfl, rfl, rfl, rfl, rfl, rfl⟩

end Sys2Proof.Machine
end

section
/-!
PROOFS. File access (20_memory.md, 10_state.md): the effective address, the register at each address of the map, MemRead
and MemWrite register by register, and which instructions an address without a meaning refuses.
-/

namespace Sys2Proof.Machine

/-! ### The effective address (R82, R83) -/

theorem effAddr_direct {f : FileField} (h : f ≠ 0x00#7) (s : State) :
    effAddr s f = BitVec.ofBool s.rp1 ++ BitVec.ofBool s.rp0 ++ f := by
  rw [effAddr, if_neg h]

theorem effAddr_indirect (s : State) : effAddr s 0x00#7 = BitVec.ofBool s.irp ++ s.fsr := by
  rw [effAddr, if_pos rfl]

theorem effAddr_direct_toNat {f : FileField} (h : f ≠ 0x00#7) (s : State) :
    (effAddr s f).toNat = 0x100 * (s.status.getLsbD 6).toNat + 0x80 * (s.status.getLsbD 5).toNat + f.toNat := by
  have hhigh : (BitVec.ofBool s.rp1 ++ BitVec.ofBool s.rp0).toNat = 2 * s.rp1.toNat + s.rp0.toNat := by
    rw [toNat_append_eq_add, BitVec.toNat_ofBool, BitVec.toNat_ofBool, pow_one]
  rw [effAddr_direct h, toNat_append_eq_add, hhigh]
  simp only [State.rp1, State.rp0]
  omega

theorem effAddr_indirect_toNat (s : State) :
    (effAddr s 0x00#7).toNat = 0x100 * (s.status.getLsbD 7).toNat + s.fsr.toNat := by
  rw [effAddr_indirect, toNat_append_eq_add, BitVec.toNat_ofBool]
  rfl

/-- Settles O6, by the number that joined bit fields make. -/
theorem effectiveAddressFollowsTheBankBits : Obligations.EffectiveAddressFollowsTheBankBits :=
  fun s _ => ⟨fun h => effAddr_direct_toNat h s, fun h => h ▸ effAddr_indirect_toNat s⟩

/-! ### The register at each address of the map (R50, R51, R84) -/

section FileMap

variable {cfg : Config} {a : FileAddr}

theorem fileReg_bankBit8 (h8 : a.getLsbD 8 = true) : fileReg cfg a = .error .bankBit8 := by
  rw [fileReg_eq, if_pos h8]

theorem fileReg_indf (h8 : a.getLsbD 8 = false) (h : a.toNat % 0x80 = 0x00) : fileReg cfg a = .ok .indf := by
  rw [fileReg_eq, h8]; simp [h]

theorem fileReg_tmr0_option (h8 : a.getLsbD 8 = false) (h : a.toNat % 0x80 = 0x01) :
    fileReg cfg a = .ok (if a.getLsbD 7 then .option else .tmr0) := by
  rw [fileReg_eq, h8]; simp [h]

theorem fileReg_pcl (h8 : a.getLsbD 8 = false) (h : a.toNat % 0x80 = 0x02) : fileReg cfg a = .ok .pcl := by
  rw [fileReg_eq, h8]; simp [h]

theorem fileReg_status (h8 : a.getLsbD 8 = false) (h : a.toNat % 0x80 = 0x03) : fileReg cfg a = .ok .status := by
  rw [fileReg_eq, h8]; simp [h]

theorem fileReg_fsr (h8 : a.getLsbD 8 = false) (h : a.toNat % 0x80 = 0x04) : fileReg cfg a = .ok .fsr := by
  rw [fileReg_eq, h8]; simp [h]

theorem fileReg_portA_trisA (h8 : a.getLsbD 8 = false) (h : a.toNat % 0x80 = 0x05) :
    fileReg cfg a = .ok (if a.getLsbD 7 then .trisA else .portA) := by
  rw [fileReg_eq, h8]; simp [h]

theorem fileReg_portB_trisB (h8 : a.getLsbD 8 = false) (h : a.toNat % 0x80 = 0x06) :
    fileReg cfg a = .ok (if a.getLsbD 7 then .trisB else .portB) := by
  rw [fileReg_eq, h8]; simp [h]

theorem fileReg_eedata_eecon1 (h8 : a.getLsbD 8 = false) (h : a.toNat % 0x80 = 0x08) :
    fileReg cfg a = .ok (if a.getLsbD 7 then .eecon1 else .eedata) := by
  rw [fileReg_eq, h8]; simp [h]

theorem fileReg_eeadr_eecon2 (h8 : a.getLsbD 8 = false) (h : a.toNat % 0x80 = 0x09) :
    fileReg cfg a = .ok (if a.getLsbD 7 then .eecon2 else .eeadr) := by
  rw [fileReg_eq, h8]; simp [h]

theorem fileReg_pclath (h8 : a.getLsbD 8 = false) (h : a.toNat % 0x80 = 0x0A) : fileReg cfg a = .ok .pclath := by
  rw [fileReg_eq, h8]; simp [h]

theorem fileReg_intcon (h8 : a.getLsbD 8 = false) (h : a.toNat % 0x80 = 0x0B) : fileReg cfg a = .ok .intcon := by
  rw [fileReg_eq, h8]; simp [h]

/-- Where the source lists no special function register, `FILE_MAP` decides. -/
theorem fileReg_other (h8 : a.getLsbD 8 = false) (h : a.toNat % 0x80 = 0x07 ∨ 0x0C ≤ a.toNat % 0x80) :
    fileReg cfg a = if inDataRanges cfg (inBank a) then .ok (.data (inBank a)) else .error .unlistedFileAddress := by
  have hne (k : Nat) (hk : k ≤ 0x06 ∨ k = 0x08 ∨ k = 0x09 ∨ k = 0x0A ∨ k = 0x0B) : ¬a.toNat % 0x80 = k := by omega
  rw [fileReg_eq, h8]
  simp only [Bool.false_eq_true, if_false, hne 0x00 (by decide), hne 0x01 (by decide), hne 0x02 (by decide),
    hne 0x03 (by decide), hne 0x04 (by decide), hne 0x05 (by decide), hne 0x06 (by decide), hne 0x08 (by decide),
    hne 0x09 (by decide), hne 0x0A (by decide), hne 0x0B (by decide)]

theorem fileReg_unlisted (h8 : a.getLsbD 8 = false) (h : a.toNat % 0x80 = 0x07 ∨ 0x0C ≤ a.toNat % 0x80)
    (hd : inDataRanges cfg (inBank a) = false) : fileReg cfg a = .error .unlistedFileAddress := by
  rw [fileReg_other h8 h, hd]; rfl

theorem fileReg_of_isDataAddr (h8 : a.getLsbD 8 = false) (h : isDataAddr cfg (inBank a) = true) :
    fileReg cfg a = .ok (.data (inBank a)) := by
  simp only [isDataAddr, inBank_toNat, Bool.and_eq_true, Bool.or_eq_true, decide_eq_true_eq] at h
  obtain ⟨haddr, hd⟩ := h
  rw [fileReg_other h8 haddr, hd]; rfl

/-- The source's map makes the addresses from 0x20 on data memory (R41). -/
theorem inDataRanges_source (hcfg : cfg.dataRanges = [(0x20, 0x6F), (0x70, 0x7F)]) (r : FileField) :
    inDataRanges cfg r = decide (0x20 ≤ r.toNat) := by
  have hr : r.toNat < 0x80 := r.isLt
  rw [Bool.eq_iff_iff]
  simp only [inDataRanges, hcfg, List.any_cons, List.any_nil, Bool.or_false, Bool.or_eq_true, Bool.and_eq_true,
    decide_eq_true_eq]
  omega

theorem fileReg_source_unlisted (hcfg : cfg.dataRanges = [(0x20, 0x6F), (0x70, 0x7F)]) (h8 : a.getLsbD 8 = false)
    (h : a.toNat % 0x80 = 0x07 ∨ (0x0C ≤ a.toNat % 0x80 ∧ a.toNat % 0x80 ≤ 0x1F)) :
    fileReg cfg a = .error .unlistedFileAddress := by
  refine fileReg_unlisted h8 (by omega) ?_
  rw [inDataRanges_source hcfg, inBank_toNat, decide_eq_false_iff_not]
  omega

theorem fileReg_source_data (hcfg : cfg.dataRanges = [(0x20, 0x6F), (0x70, 0x7F)]) (h8 : a.getLsbD 8 = false)
    (h : 0x20 ≤ a.toNat % 0x80) : fileReg cfg a = .ok (.data (inBank a)) := by
  rw [fileReg_other h8 (by omega), inDataRanges_source hcfg, inBank_toNat, decide_eq_true h]; rfl

end FileMap

/-! ### MemRead and MemWrite through the map (R86, R87) -/

section Access

variable {s : State} {a : FileAddr}

theorem memRead_of_fileReg {reg : FileReg} (h : fileReg s.cfg a = .ok reg) : memRead s a = readReg s reg := by
  rw [memRead, h]

theorem memRead_of_fileReg_error {e : Refusal} (h : fileReg s.cfg a = .error e) : memRead s a = .error e := by
  rw [memRead, h]

theorem memWrite_of_fileReg {reg : FileReg} (h : fileReg s.cfg a = .ok reg) (fl : Bool) (v : Byte) :
    memWrite s a fl v = writeReg s fl v reg := by
  rw [memWrite, h]

theorem memWrite_of_fileReg_error {e : Refusal} (h : fileReg s.cfg a = .error e) (fl : Bool) (v : Byte) :
    memWrite s a fl v = .error e := by
  rw [memWrite, h]

/-- An address that cannot be read cannot be written, for the same reason, in any state with the same parameters. -/
theorem memWrite_error_of_memRead_error {t : State} {e : Refusal} (hcfg : t.cfg = s.cfg) (h : memRead s a = .error e)
    (fl : Bool) (v : Byte) : memWrite t a fl v = .error e := by
  cases hreg : fileReg s.cfg a with
  | error e' =>
    rw [memRead_of_fileReg_error hreg] at h
    rw [memWrite_of_fileReg_error (hcfg ▸ hreg)]
    cases h; rfl
  | ok reg =>
    rw [memRead_of_fileReg hreg] at h
    rw [memWrite_of_fileReg (hcfg ▸ hreg)]
    cases reg
    case eecon1 | eecon2 =>
      simp only [readReg] at h
      simp only [writeReg]
      split at h
      · cases h
      · next device => cases h; exact if_neg (hcfg ▸ device)
    all_goals cases h

end Access

/-- PCL reads as the low byte of the next address (decision D11). -/
theorem readReg_pcl (s : State) : readReg s .pcl = .ok (BitVec.ofNat 8 (s.pc.toNat + 1)) := by
  refine congrArg Except.ok (BitVec.eq_of_toNat_eq ?_)
  rw [BitVec.extractLsb'_toNat, BitVec.toNat_add, BitVec.toNat_ofNat]
  simp only [Nat.shiftRight_zero, BitVec.toNat_ofNat]
  omega

/-- A write to PCL joins PCLATH and the byte (decision D12). -/
theorem pclath_append (p : BitVec 5) (v : Byte) : p ++ v = BitVec.ofNat 13 (p.toNat * 0x100 + v.toNat) :=
  append_eq_ofNat (by have := p.isLt; have := v.isLt; omega)

/-- Settles O7, by the register at each address. -/
theorem memReadReturnsEveryRegister : Obligations.MemReadReturnsEveryRegister := by
  intro s a hcfg hdev
  refine ⟨fun h8 => memRead_of_fileReg_error (fileReg_bankBit8 h8), fun h8 => ⟨fun h => ?_, fun h => ?_, fun h => ?_,
    fun h => ?_, fun h => ?_, fun h => ?_, fun h => ?_, fun h => ?_, fun h => ?_, fun h => ?_, fun h => ?_,
    fun h => memRead_of_fileReg_error (fileReg_source_unlisted hcfg h8 h), fun h => ?_⟩⟩
  · exact memRead_of_fileReg (fileReg_indf h8 h)
  · rw [memRead_of_fileReg (fileReg_tmr0_option h8 h)]; cases a.getLsbD 7 <;> rfl
  · rw [memRead_of_fileReg (fileReg_pcl h8 h), readReg_pcl]
  · exact memRead_of_fileReg (fileReg_status h8 h)
  · exact memRead_of_fileReg (fileReg_fsr h8 h)
  · rw [memRead_of_fileReg (fileReg_portA_trisA h8 h)]; cases a.getLsbD 7 <;> rfl
  · rw [memRead_of_fileReg (fileReg_portB_trisB h8 h)]; cases a.getLsbD 7 <;> rfl
  · rw [memRead_of_fileReg (fileReg_eedata_eecon1 h8 h)]; cases a.getLsbD 7 <;> simp [readReg, hdev]
  · rw [memRead_of_fileReg (fileReg_eeadr_eecon2 h8 h)]; cases a.getLsbD 7 <;> simp [readReg, hdev]
  · rw [memRead_of_fileReg (fileReg_pclath h8 h)]; simp [readReg]
  · exact memRead_of_fileReg (fileReg_intcon h8 h)
  · rw [memRead_of_fileReg (fileReg_source_data hcfg h8 h), readReg, inBank_toNat]

/-- What a store to STATUS leaves in its three fields (R30, decision D13). -/
theorem mergeStatus_fields (old v : Byte) (fl : Bool) :
    (mergeStatus old v fl).extractLsb' 5 3 = v.extractLsb' 5 3 ∧
    (mergeStatus old v fl).extractLsb' 3 2 = old.extractLsb' 3 2 ∧
    (mergeStatus old v fl).extractLsb' 0 3 = if fl then old.extractLsb' 0 3 else v.extractLsb' 0 3 := by
  have hleft (n : Nat) (x y : BitVec n) : x &&& BitVec.allOnes n ||| y &&& 0#n = x := by simp
  have hright (n : Nat) (x y : BitVec n) : x &&& 0#n ||| y &&& BitVec.allOnes n = y := by simp
  cases fl <;>
    simp only [mergeStatus, Bool.false_eq_true, if_true, if_false, BitVec.extractLsb'_or, BitVec.extractLsb'_and]
  · exact ⟨hleft 3 _ _, hright 2 _ _, hleft 3 _ _⟩
  · exact ⟨hleft 3 _ _, hright 2 _ _, hright 3 _ _⟩

/-- Settles O8, by the register at each address. -/
theorem memWriteStoresEveryRegister : Obligations.MemWriteStoresEveryRegister := by
  intro s a fl v hcfg hdev
  refine ⟨fun h8 => memWrite_of_fileReg_error (fileReg_bankBit8 h8) fl v, fun h8 => ⟨fun h => ?_, fun h => ?_,
    fun h => ?_, fun h => ?_, fun h => ?_, fun h => ?_, fun h => ?_, fun h => ?_, fun h => ?_, fun h => ?_, fun h => ?_,
    fun h => memWrite_of_fileReg_error (fileReg_source_unlisted hcfg h8 h) fl v, fun h => ?_⟩⟩
  · exact memWrite_of_fileReg (fileReg_indf h8 h) fl v
  · rw [memWrite_of_fileReg (fileReg_tmr0_option h8 h)]; cases a.getLsbD 7 <;> rfl
  · rw [memWrite_of_fileReg (fileReg_pcl h8 h), writeReg, pclath_append]
  · exact ⟨_, memWrite_of_fileReg (fileReg_status h8 h) fl v, rfl, mergeStatus_fields s.status v fl⟩
  · exact memWrite_of_fileReg (fileReg_fsr h8 h) fl v
  · rw [memWrite_of_fileReg (fileReg_portA_trisA h8 h)]; cases a.getLsbD 7 <;> rfl
  · rw [memWrite_of_fileReg (fileReg_portB_trisB h8 h)]; cases a.getLsbD 7 <;> rfl
  · rw [memWrite_of_fileReg (fileReg_eedata_eecon1 h8 h)]; cases a.getLsbD 7 <;> simp [writeReg, hdev]
  · rw [memWrite_of_fileReg (fileReg_eeadr_eecon2 h8 h)]; cases a.getLsbD 7 <;> simp [writeReg, hdev]
  · rw [memWrite_of_fileReg (fileReg_pclath h8 h)]; simp [writeReg]
  · exact memWrite_of_fileReg (fileReg_intcon h8 h) fl v
  · rw [memWrite_of_fileReg (fileReg_source_data hcfg h8 h), writeReg, inBank_toNat]

/-! ### Refused operands (R84, R51, R40) -/

section Refused

variable {s : State} {f : FileField} {e : Refusal}

theorem byteOp_of_memRead_error (h : memRead s (effAddr s f) = .error e) (d : Dest) (alu : Byte → AluResult) :
    byteOp f d alu s = .error e := by
  simp only [byteOp, h]

theorem byteSkipOp_of_memRead_error (h : memRead s (effAddr s f) = .error e) (d : Dest) (alu : Byte → Byte) :
    byteSkipOp f d alu s = .error e := by
  simp only [byteSkipOp, h]

theorem bitSkipOp_of_memRead_error (h : memRead s (effAddr s f) = .error e) (b : BitIndex) (want : Bool) :
    bitSkipOp f b want s = .error e := by
  simp only [bitSkipOp, h]

theorem storeOp_of_memRead_error (h : memRead s (effAddr s f) = .error e) (out : AluResult) :
    storeOp f out s = .error e := by
  simp only [storeOp, memWrite_error_of_memRead_error (State.advance_cfg s) h]

/-- Every instruction with a file operand is refused where its operand cannot be read, MOVWF and CLRF too, which only
write it. -/
theorem exec_of_memRead_error {i : Instr} (hf : fileOperand i = some f) (h : memRead s (effAddr s f) = .error e) :
    exec i s = .refused e := by
  cases i with
  | movwf _ | clrf _ => cases hf; exact congrArg finish (storeOp_of_memRead_error h _)
  | subwf _ _ | iorwf _ _ | andwf _ _ | xorwf _ _ | addwf _ _ | movf _ _ | comf _ _ | decf _ _ | incf _ _ | rrf _ _
  | rlf _ _ | swapf _ _ | bcf _ _ | bsf _ _ => cases hf; exact congrArg finish (byteOp_of_memRead_error h _ _)
  | decfsz _ _ | incfsz _ _ => cases hf; exact congrArg finish (byteSkipOp_of_memRead_error h _ _)
  | btfsc _ _ | btfss _ _ => cases hf; exact congrArg finish (bitSkipOp_of_memRead_error h _ _)
  | _ => cases hf

end Refused

/-- EECON1 and EECON2 are refused without the device (decision D20). -/
theorem memRead_eeprom_control {s : State} {a : FileAddr} (h : a.toNat = 0x88 ∨ a.toNat = 0x89)
    (hdev : s.cfg.eepromDevice = false) : memRead s a = .error .eepromControl := by
  rcases h with h | h
  · obtain rfl : a = 0x088#9 := BitVec.eq_of_toNat_eq h
    rw [memRead_of_fileReg (reg := .eecon1) rfl, readReg, hdev]; rfl
  · obtain rfl : a = 0x089#9 := BitVec.eq_of_toNat_eq h
    rw [memRead_of_fileReg (reg := .eecon2) rfl, readReg, hdev]; rfl

/-- Settles O9, by the reason a read of the operand is refused. -/
theorem inaccessibleOperandRefusesEveryFileInstruction :
    Obligations.InaccessibleOperandRefusesEveryFileInstruction := by
  intro i f s hf
  refine ⟨fun h8 => ?_, fun h8 haddr hd => ?_, fun haddr hdev => ?_⟩
  · exact exec_of_memRead_error hf (memRead_of_fileReg_error (fileReg_bankBit8 h8))
  · exact exec_of_memRead_error hf (memRead_of_fileReg_error (fileReg_unlisted h8 haddr hd))
  · exact exec_of_memRead_error hf (memRead_eeprom_control haddr hdev)

/-! ### One copy of the data memory in both banks (R41, decision D3) -/

theorem inBank_effAddr_direct {f : FileField} (h : f ≠ 0x00#7) (s : State) : inBank (effAddr s f) = f := by
  rw [effAddr_direct h]
  exact BitVec.extractLsb'_append_eq_right

theorem effAddr_direct_bit8 {f : FileField} (h : f ≠ 0x00#7) (s : State) : (effAddr s f).getLsbD 8 = s.rp1 := by
  rw [effAddr_direct h]
  exact BitVec.getLsbD_append.trans (BitVec.getLsbD_append.trans (BitVec.getLsbD_ofBool s.rp1 0))

/-- A data address is no indirect access. -/
theorem ne_zero_of_isDataAddr {cfg : Config} {f : FileField} (h : isDataAddr cfg f = true) : f ≠ 0x00#7 := by
  rintro rfl
  simp [isDataAddr] at h

/-- With RP1 = 0 a data address names its byte whatever RP0 holds. -/
theorem fileReg_effAddr_data {s : State} {f : FileField} (h : isDataAddr s.cfg f = true)
    (hrp1 : s.status.getLsbD 6 = false) : fileReg s.cfg (effAddr s f) = .ok (.data f) := by
  have hf := ne_zero_of_isDataAddr h
  have hreg := fileReg_of_isDataAddr (cfg := s.cfg) ((effAddr_direct_bit8 hf s).trans hrp1)
    (by rw [inBank_effAddr_direct hf]; exact h)
  rwa [inBank_effAddr_direct hf] at hreg

/-- An instruction that stores without reading and writes no flag, from the register its operand names. -/
theorem storeOp_plainResult {f : FileField} {v : Byte} {s t : State} {reg : FileReg}
    (hreg : fileReg s.cfg (effAddr s f) = .ok reg) (hwrite : writeReg s.advance false v reg = .ok t) :
    storeOp f (plainResult v) s = .ok t := by
  have hmem : memWrite s.advance (effAddr s f) (plainResult v).flags.writesAny (plainResult v).value = .ok t :=
    (memWrite_of_fileReg (s := s.advance) hreg false v).trans hwrite
  simp only [storeOp, hmem]
  exact congrArg Except.ok t.setFlags_nothing

/-- A byte-oriented instruction with `d = 0`, from the byte its operand reads. -/
theorem byteOp_w_of_memRead {f : FileField} {s : State} {v : Byte} (hread : memRead s (effAddr s f) = .ok v)
    (alu : Byte → AluResult) :
    byteOp f .w alu s = .ok ({ s.advance with w := (alu v).value }.setFlags (alu v).flags) := by
  simp only [byteOp, hread, writeDest]

theorem exec_movwf_data {s : State} {f : FileField} (h : isDataAddr s.cfg f = true)
    (hrp1 : s.status.getLsbD 6 = false) :
    exec (.movwf f) s = .next { s.advance with data := s.data.write f.toNat s.w } :=
  congrArg finish (storeOp_plainResult (fileReg_effAddr_data h hrp1) rfl)

theorem exec_movf_w_data {s : State} {f : FileField} (h : isDataAddr s.cfg f = true)
    (hrp1 : s.status.getLsbD 6 = false) :
    exec (.movf f .w) s =
      .next ({ s.advance with w := s.data.read f.toNat }.setFlags (zResult (s.data.read f.toNat)).flags) :=
  congrArg finish (byteOp_w_of_memRead (memRead_of_fileReg (fileReg_effAddr_data h hrp1)) _)

/-- Settles O10: both instructions name the one copy of the byte. -/
theorem storedByteIsLoadedThroughEitherBank : Obligations.StoredByteIsLoadedThroughEitherBank := by
  intro s f bank hwf hdata hrp1
  have hrp1' : (setBit s.status 5 bank).getLsbD 6 = false := (getLsbD_setBit s.status 5 6 bank).trans hrp1
  exact ⟨_, _, exec_movwf_data hdata hrp1, exec_movf_w_data hdata hrp1', Memory.read_write_same hwf f.toNat s.w,
    fun r hr => Memory.read_write_ne hr.symm s.data s.w⟩

/-! ### The EEPROM device (R40; details of log 13) -/

section Eeprom

variable {s : State} (hdev : s.cfg.eepromDevice = true)
include hdev

theorem memRead_eecon1_of_device : memRead s 0x088#9 = .ok (BitVec.ofNat 8 s.eecon1.toNat) := by
  rw [memRead_of_fileReg (reg := .eecon1) rfl, readReg, if_pos hdev, BitVec.ofNat_toNat]

theorem memRead_eecon2_of_device : memRead s 0x089#9 = .ok 0x00#8 := by
  rw [memRead_of_fileReg (reg := .eecon2) rfl, readReg, if_pos hdev]

theorem memWrite_eecon1_of_device (v : Byte) : memWrite s 0x088#9 false v = .ok (writeEecon1 s v) := by
  rw [memWrite_of_fileReg (reg := .eecon1) rfl, writeReg, if_pos hdev]

theorem memWrite_eecon2_of_device (v : Byte) : memWrite s 0x089#9 false v = .ok (writeEecon2 s v) := by
  rw [memWrite_of_fileReg (reg := .eecon2) rfl, writeReg, if_pos hdev]

/-- The completion event ends the write in progress. -/
theorem raiseFlags_of_complete {b : Boundary} (hb : b.eeComplete = true) :
    raiseFlags b s =
      completeEepromWrite { s with
        intcon := s.intcon ||| flagBit 8 2 b.t0Overflow ||| flagBit 8 1 b.intTrigger ||| flagBit 8 0 b.rbChange } := by
  simp only [raiseFlags, hb, hdev, Bool.and_self, if_true]

end Eeprom

/-- 0x55 and then 0xAA unlock a write, whatever came before. -/
theorem writeEecon2_unlocks (s : State) :
    writeEecon2 (writeEecon2 s 0x55#8) 0xAA#8 = { s with eeUnlock := .unlocked } :=
  rfl

/-- WR with WREN set, unlocked and idle: the write of EEDATA to EEADR starts. -/
theorem writeEecon1_starts {s : State} {v : Byte} (hunlock : s.eeUnlock = .unlocked) (hwren : s.eecon1.getLsbD 2 = true)
    (hidle : s.eecon1.getLsbD 1 = false) (hwr : v.getLsbD 1 = true) :
    (writeEecon1 s v).eePending = some (s.eeadr, s.eedata) ∧ (writeEecon1 s v).eecon1.getLsbD 1 = true := by
  simp only [writeEecon1, hunlock, hwren, hidle, hwr]
  exact ⟨rfl, by simp⟩

/-- The EEPROM after the end of a write. -/
theorem completeEepromWrite_eeprom {s : State} {a : BitVec 6} {v : Byte} (h : s.eePending = some (a, v)) :
    (completeEepromWrite s).eeprom = s.eeprom.write a.toNat v := by
  simp only [completeEepromWrite, h]

/-- The bits of EECON1 after the end of a write: EEIF is 1, WR is 0, the others are as before. -/
theorem completeEepromWrite_eecon1_bit (s : State) {k : Nat} (hk : k < 5) :
    (completeEepromWrite s).eecon1.getLsbD k = if k = 4 then true else if k = 1 then false else s.eecon1.getLsbD k := by
  simp only [completeEepromWrite, BitVec.getLsbD_or, BitVec.getLsbD_and]
  interval_cases k <;> simp

/-- Settles O11: the sequence ends in the start of a write, and the event completes it. -/
theorem eepromWriteSequenceStoresTheByte : Obligations.EepromWriteSequenceStoresTheByte := by
  intro s v b hdev hwf hwren hidle hwr _ hb
  have hunlocks : memWrite (writeEecon2 s 0x55#8) 0x089#9 false 0xAA#8 = .ok { s with eeUnlock := .unlocked } :=
    (memWrite_eecon2_of_device (s := writeEecon2 s 0x55#8) hdev _).trans (congrArg Except.ok (writeEecon2_unlocks s))
  have hstarts := memWrite_eecon1_of_device (s := { s with eeUnlock := .unlocked }) hdev v
  obtain ⟨hpending, hbusy⟩ := writeEecon1_starts (s := { s with eeUnlock := .unlocked }) rfl hwren hidle hwr
  have hend := raiseFlags_of_complete (s := writeEecon1 { s with eeUnlock := .unlocked } v) hdev hb
  have hprom : (raiseFlags b (writeEecon1 { s with eeUnlock := .unlocked } v)).eeprom =
      s.eeprom.write s.eeadr.toNat s.eedata := by
    rw [hend]; exact completeEepromWrite_eeprom hpending
  refine ⟨_, _, _, memWrite_eecon2_of_device hdev _, hunlocks, hstarts, hbusy, rfl, ?_, fun a ha => ?_, ?_, ?_⟩
  · rw [hprom]; exact Memory.read_write_same hwf _ _
  · rw [hprom]; exact Memory.read_write_ne ha.symm _ _
  · rw [hend, completeEepromWrite_eecon1_bit _ (by decide)]; rfl
  · rw [hend, completeEepromWrite_eecon1_bit _ (by decide)]; rfl

/-- A write to EECON1 starts nothing while WREN is 0 or EECON2 has not unlocked it. -/
theorem writeEecon1_eePending_of_locked {s : State} (h : s.eecon1.getLsbD 2 = false ∨ s.eeUnlock ≠ .unlocked)
    (v : Byte) : (writeEecon1 s v).eePending = s.eePending := by
  rcases h with h | h <;> simp [writeEecon1, -BitVec.getLsbD_eq_getElem, h]

/-- Settles O12, by what the two registers read as and what a write to EECON1 does. -/
theorem eepromReadAndLockedWrite : Obligations.EepromReadAndLockedWrite := by
  intro s v hdev
  exact ⟨memRead_eecon1_of_device hdev, memRead_eecon2_of_device hdev, writeEecon1 s v,
    memWrite_eecon1_of_device hdev v,
    fun hrd => if_pos hrd, fun hrd => if_neg (Bool.eq_false_iff.mp hrd), rfl, rfl,
    fun hlocked => writeEecon1_eePending_of_locked hlocked v⟩

/-! ### The port latch (R38, decision D21) -/

/-- The pins of a step are the draw of its boundary (log 2). -/
theorem openBoundary_pinsB (s : State) : (openBoundary s).pinsB = Config.draw .portB s.tick := by
  simp only [openBoundary, drawInputs, raiseFlags]
  split <;> rfl

/-- A bit instruction on PORTB reads the pins and writes the latch. -/
theorem exec_writesBack_portB {i : Instr} {f : FileField} {s : State} {result : Byte → Byte}
    (hexec : exec i s = finish (byteOp f .f (fun v => plainResult (result v)) s)) (ha : (effAddr s f).toNat = 0x006) :
    exec i s = .next { s with pc := s.pc + 1#13, latB := result s.pinsB } := by
  have hea : effAddr s f = 0x006#9 := BitVec.eq_of_toNat_eq ha
  have hacc : accessible s (effAddr s f) = true := by rw [hea]; rfl
  obtain ⟨v, t, hread, hwrite, hnext⟩ := exec_writesBack hexec hacc
  rw [hea, memRead_of_fileReg (reg := .portB) rfl] at hread
  rw [hea, memWrite_of_fileReg (reg := .portB) rfl] at hwrite
  cases hread
  cases hwrite
  exact hnext

/-- Settles O42: the boundary's draw, and the two bit instructions as a read of the pins and a write of the latch. -/
theorem portReadModifyWriteUsesTheDrawnPins : Obligations.PortReadModifyWriteUsesTheDrawnPins :=
  fun s f b ha => ⟨openBoundary_pinsB s, exec_writesBack_portB (exec_bsf f b s) ha,
    exec_writesBack_portB (exec_bcf f b s) ha⟩

end Sys2Proof.Machine
end

section
/-!
PROOFS. ADDWF, ADDLW, SUBWF and SUBLW of 40_arith_logic.md (R150 to R152, R156, R160, R161). The model adds in nine and
in five bits; one lemma says what the top bit of such a sum is, and the results and flags follow as numbers.
-/

namespace Sys2Proof.Machine

/-! ### The carry out of a sum -/

/-- The top bit of a word says whether its number reaches the upper half. -/
theorem getLsbD_top_eq_decide {n : Nat} (x : BitVec (n + 1)) : x.getLsbD n = decide (2 ^ n ≤ x.toNat) :=
  (BitVec.msb_eq_getLsbD_last x).symm.trans (BitVec.msb_eq_decide x)

/-- A nibble as a number. -/
theorem lowNibble_toNat (v : Byte) : (v.extractLsb' 0 4).toNat = v.toNat % 0x10 :=
  BitVec.extractLsb'_toNat 0 4 v

/-! ### The sum (R150) -/

theorem add8_sum_toNat (a b : Byte) : (a.setWidth 9 + b.setWidth 9).toNat = a.toNat + b.toNat := by
  have ha := a.isLt
  have hb := b.isLt
  rw [BitVec.toNat_add, BitVec.toNat_setWidth, BitVec.toNat_setWidth]
  omega

theorem add8_value (a b : Byte) : (add8 a b).value = BitVec.ofNat 8 (a.toNat + b.toNat) := by
  rw [← add8_sum_toNat, BitVec.ofNat_toNat]
  rfl

theorem add8_nibbles_toNat (a b : Byte) :
    ((a.extractLsb' 0 4).setWidth 5 + (b.extractLsb' 0 4).setWidth 5).toNat = a.toNat % 0x10 + b.toNat % 0x10 := by
  rw [BitVec.toNat_add, BitVec.toNat_setWidth, BitVec.toNat_setWidth, lowNibble_toNat, lowNibble_toNat]
  omega

theorem add8_flags (a b : Byte) :
    (add8 a b).flags = ⟨some (decide ((a.toNat + b.toNat) % 0x100 = 0)),
      some (decide (0xF < a.toNat % 0x10 + b.toNat % 0x10)), some (decide (0xFF < a.toNat + b.toNat))⟩ := by
  have hz : ((add8 a b).value == 0x00#8) = decide ((a.toNat + b.toNat) % 0x100 = 0) := by
    rw [add8_value, beq_eq_decide, decide_eq_decide, ← BitVec.toNat_inj, BitVec.toNat_ofNat]
    rfl
  have hdc := getLsbD_top_eq_decide ((a.extractLsb' 0 4).setWidth 5 + (b.extractLsb' 0 4).setWidth 5)
  have hc := getLsbD_top_eq_decide (a.setWidth 9 + b.setWidth 9)
  rw [add8_nibbles_toNat] at hdc
  rw [add8_sum_toNat] at hc
  exact congr (congr (congrArg FlagUpdate.mk (congrArg some hz)) (congrArg some hdc)) (congrArg some hc)

/-! ### The difference (R151) -/

/-- `a + NOT b + 1` in nine bits is the difference moved up by 0x100. -/
theorem sub8_sum_toNat (a b : Byte) : (a.setWidth 9 + (~~~b).setWidth 9 + 1#9).toNat = a.toNat + 0x100 - b.toNat := by
  have ha := a.isLt
  have hb := b.isLt
  rw [BitVec.toNat_add, BitVec.toNat_add, BitVec.toNat_setWidth, BitVec.toNat_setWidth, BitVec.toNat_not,
    BitVec.toNat_ofNat]
  omega

theorem sub8_nibbles_toNat (a b : Byte) :
    ((a.extractLsb' 0 4).setWidth 5 + ((~~~b).extractLsb' 0 4).setWidth 5 + 1#5).toNat =
      a.toNat % 0x10 + 0x10 - b.toNat % 0x10 := by
  have hb := b.isLt
  rw [BitVec.toNat_add, BitVec.toNat_add, BitVec.toNat_setWidth, BitVec.toNat_setWidth, lowNibble_toNat,
    lowNibble_toNat, BitVec.toNat_not, BitVec.toNat_ofNat]
  omega

theorem sub8_value_toNat (a b : Byte) : (sub8 a b).value.toNat = (a.toNat + 0x100 - b.toNat) % 0x100 := by
  rw [← sub8_sum_toNat]
  exact BitVec.toNat_setWidth 8 _

theorem sub8_value (a b : Byte) : (sub8 a b).value = BitVec.ofInt 8 ((a.toNat : Int) - (b.toNat : Int)) := by
  have ha := a.isLt
  have hb := b.isLt
  apply BitVec.eq_of_toNat_eq
  rw [sub8_value_toNat, BitVec.toNat_ofInt]
  omega

theorem sub8_flags (a b : Byte) :
    (sub8 a b).flags = ⟨some (decide (a = b)), some (decide (b.toNat % 0x10 ≤ a.toNat % 0x10)),
      some (decide (b.toNat ≤ a.toNat))⟩ := by
  have ha := a.isLt
  have hb := b.isLt
  have hz : ((sub8 a b).value == 0x00#8) = decide (a = b) := by
    rw [beq_eq_decide, decide_eq_decide, ← BitVec.toNat_inj, ← BitVec.toNat_inj, sub8_value_toNat, BitVec.toNat_ofNat]
    omega
  have hdc : ((a.extractLsb' 0 4).setWidth 5 + ((~~~b).extractLsb' 0 4).setWidth 5 + 1#5).getLsbD 4 =
      decide (b.toNat % 0x10 ≤ a.toNat % 0x10) := by
    rw [getLsbD_top_eq_decide, sub8_nibbles_toNat, decide_eq_decide]
    omega
  have hc : (a.setWidth 9 + (~~~b).setWidth 9 + 1#9).getLsbD 8 = decide (b.toNat ≤ a.toNat) := by
    rw [getLsbD_top_eq_decide, sub8_sum_toNat, decide_eq_decide]
    omega
  exact congr (congr (congrArg FlagUpdate.mk (congrArg some hz)) (congrArg some hdc)) (congrArg some hc)

/-! ### The meaning of each instruction, as its shape -/

theorem exec_addwf (f : FileField) (d : Dest) (s : State) :
    exec (.addwf f d) s = finish (byteOp f d (fun v => add8 s.w v) s) := rfl

theorem exec_subwf (f : FileField) (d : Dest) (s : State) :
    exec (.subwf f d) s = finish (byteOp f d (fun v => sub8 v s.w) s) := rfl

theorem exec_addlw (k : Byte) (s : State) : exec (.addlw k) s = .next (literalOp (add8 s.w k) s) := rfl

theorem exec_sublw (k : Byte) (s : State) : exec (.sublw k) s = .next (literalOp (sub8 k s.w) s) := rfl

/-! ### The computed jump (decision D11) -/

/-- A byte-oriented instruction with `d = 1`, from the byte its operand reads and the register write. -/
theorem byteOp_f_of_fileReg {f : FileField} {s t : State} {v : Byte} {reg : FileReg}
    (hreg : fileReg s.cfg (effAddr s f) = .ok reg) (hread : readReg s reg = .ok v) (alu : Byte → AluResult)
    (hwrite : writeReg s.advance (alu v).flags.writesAny (alu v).value reg = .ok t) :
    byteOp f .f alu s = .ok (t.setFlags (alu v).flags) := by
  have hr : memRead s (effAddr s f) = .ok v := (memRead_of_fileReg hreg).trans hread
  have hw : memWrite s.advance (effAddr s f) (alu v).flags.writesAny (alu v).value = .ok t :=
    (memWrite_of_fileReg (s := s.advance) hreg _ _).trans hwrite
  simp only [byteOp, hr, writeDest, hw]

/-- ADDWF f,1 on PCL jumps within the page of PCLATH; the carry of the sum does not reach the high bits. -/
theorem exec_addwf_pcl {f : FileField} {s : State} (ha : (effAddr s f).toNat = 0x002 ∨ (effAddr s f).toNat = 0x082) :
    ∃ t, exec (.addwf f .f) s = .next t ∧
      t.pc.toNat = s.pclath.toNat * 0x100 + (s.pc.toNat + 1 + s.w.toNat) % 0x100 := by
  have hreg : fileReg s.cfg (effAddr s f) = .ok .pcl := by
    rcases ha with ha | ha
    · exact congrArg (fileReg s.cfg) (BitVec.eq_of_toNat_eq (y := 0x002#9) ha)
    · exact congrArg (fileReg s.cfg) (BitVec.eq_of_toNat_eq (y := 0x082#9) ha)
  have hop := byteOp_f_of_fileReg hreg (readReg_pcl s) (fun v => add8 s.w v) rfl
  refine ⟨_, congrArg finish hop, ?_⟩
  rw [State.setFlags_pc]
  change (s.pclath ++ (add8 s.w _).value).toNat = _
  rw [toNat_append_eq_add, add8_value, BitVec.toNat_ofNat, BitVec.toNat_ofNat]
  omega

/-! ### The statements -/

/-- Settles O13: the encodings by the decoder's arms, the rules by the sum as a number, the jump by PCL as a
register. -/
theorem additionWritesSumAndCarries : Obligations.AdditionWritesSumAndCarries :=
  ⟨byteEncoding_addwf, literalEncoding_addlw,
    .of (fun s v => add8 s.w v) exec_addwf (fun _ _ => rfl) (fun s => add8_value s.w) (fun s => add8_flags s.w),
    .of (fun s k => add8 s.w k) exec_addlw (fun s => add8_value s.w) (fun s => add8_flags s.w),
    fun _ _ => exec_addwf_pcl⟩

/-- Settles O14: the encodings by the decoder's arms, the rules by the difference as a number. -/
theorem subtractionWritesDifferenceAndBorrows : Obligations.SubtractionWritesDifferenceAndBorrows :=
  ⟨byteEncoding_subwf, literalEncoding_sublw,
    .of (fun s v => sub8 v s.w) exec_subwf (fun _ _ => rfl) (fun s v => sub8_value v s.w) (fun s v => sub8_flags v s.w),
    .of (fun s k => sub8 k s.w) exec_sublw (fun s k => sub8_value k s.w) (fun s k => sub8_flags k s.w)⟩

end Sys2Proof.Machine
end

section
/-!
PROOFS. CLRW (R185), OPTION and TRIS (R195, R196), the jumps and returns (R193, R201, R202, R205 to R207) and the
counting skips (R216, R217). Each rule of the stack is said once, with room and without; the skips write the register as if `pc`
had not moved, since PCL is excluded.
-/

namespace Sys2Proof.Machine

/-! ### CLRW, OPTION, TRIS -/

theorem exec_clrw (s : State) : exec .clrw s = .next (literalOp (zResult 0x00#8) s) := rfl

/-- Settles O22: the encoding by the half of the opcode with `d` clear, the rule as a literal result 0x00. -/
theorem clrwClearsWAndSetsZ : Obligations.ClrwClearsWAndSetsZ :=
  ⟨fun _ => decode_clrw, fun s => ⟨_, exec_clrw s, flagsSet_setFlags _ (zResult 0x00#8).flags⟩⟩

/-- Settles O27, by evaluation: neither instruction looks at the bank bits. -/
theorem optionAndTrisStoreW : Obligations.OptionAndTrisStoreW :=
  ⟨rfl, rfl, rfl, rfl, fun _ => ⟨rfl, rfl, rfl, rfl⟩⟩

/-! ### The return stack (R99, decision D7) -/

theorem push_of_room {s : State} (h : s.stack.length ≠ s.cfg.stackDepth) (v : ProgAddr) :
    push s v = .ok { s with stack := v :: s.stack } := by
  rw [push, if_neg h]

theorem push_of_full {s : State} (h : s.stack.length = s.cfg.stackDepth) (v : ProgAddr) :
    push s v = .error .stackOverflow := by
  rw [push, if_pos h]

theorem popToPc_cons {s : State} {a : ProgAddr} {rest : List ProgAddr} (h : s.stack = a :: rest) :
    popToPc s = .ok { s with stack := rest, pc := a } := by
  simp only [popToPc, h]

theorem popToPc_nil {s : State} (h : s.stack = []) : popToPc s = .error .stackUnderflow := by
  simp only [popToPc, h]

/-- GIE set, as a mask of INTCON. -/
theorem setBit_gie_true (v : Byte) : setBit v 7 true = v ||| 0x80#8 := rfl

/-- GIE cleared, as a mask of INTCON. -/
theorem setBit_gie_false (v : Byte) : setBit v 7 false = v &&& 0x7F#8 := rfl

/-! ### The returns -/

theorem exec_ret (s : State) : exec .ret s = finish (popToPc s) := rfl

theorem exec_retfie (s : State) : exec .retfie s = finish (returnFromInterrupt s) := rfl

theorem exec_retlw (k : Byte) (s : State) : exec (.retlw k) s = finish (popToPc { s with w := k }) := rfl

theorem exec_ret_cons {s : State} {a : ProgAddr} {rest : List ProgAddr} (h : s.stack = a :: rest) :
    exec .ret s = .next { s with pc := a, stack := rest } := by
  rw [exec_ret, popToPc_cons h, finish_ok]

theorem exec_retfie_cons {s : State} {a : ProgAddr} {rest : List ProgAddr} (h : s.stack = a :: rest) :
    exec .retfie s = .next { s with pc := a, stack := rest, intcon := s.intcon ||| 0x80#8 } := by
  simp only [exec_retfie, returnFromInterrupt, popToPc_cons h, setBit_gie_true, finish_ok]

theorem exec_retlw_cons {s : State} {a : ProgAddr} {rest : List ProgAddr} (h : s.stack = a :: rest) (k : Byte) :
    exec (.retlw k) s = .next { s with pc := a, stack := rest, w := k } := by
  rw [exec_retlw, popToPc_cons (s := { s with w := k }) h, finish_ok]

theorem exec_ret_nil {s : State} (h : s.stack = []) : exec .ret s = .refused .stackUnderflow := by
  rw [exec_ret, popToPc_nil h, finish_error]

theorem exec_retfie_nil {s : State} (h : s.stack = []) : exec .retfie s = .refused .stackUnderflow := by
  simp only [exec_retfie, returnFromInterrupt, popToPc_nil h, finish_error]

theorem exec_retlw_nil {s : State} (h : s.stack = []) (k : Byte) : exec (.retlw k) s = .refused .stackUnderflow := by
  rw [exec_retlw, popToPc_nil (s := { s with w := k }) h, finish_error]

/-- Settles O26: the encodings by the decoder, the rules by the two forms of the stack. -/
theorem returnsPopTheStack : Obligations.ReturnsPopTheStack :=
  ⟨rfl, rfl, literalEncoding_retlw, fun _ _ _ k h => ⟨exec_ret_cons h, exec_retfie_cons h, exec_retlw_cons h k⟩,
    fun _ k h => ⟨exec_ret_nil h, exec_retfie_nil h, exec_retlw_nil h k⟩⟩

/-! ### CALL and GOTO -/

/-- The target of R205 as a number: PCLATH[4:3] above the eleven bits of the instruction (decision D10). -/
theorem jumpTarget_eq_ofNat (s : State) (k : BitVec 11) :
    jumpTarget s k = BitVec.ofNat 13 (s.pclath.toNat / 8 * 0x800 + k.toNat) := by
  have hpage : (s.pclath.extractLsb' 3 2).toNat = s.pclath.toNat / 8 % 4 := extractLsb'_toNat_div s.pclath 3 2
  have hk : k.toNat < 0x800 := k.isLt
  have hp : s.pclath.toNat < 0x20 := s.pclath.isLt
  exact append_eq_ofNat (by omega)

/-- The address of the next word, modulo 0x2000. -/
theorem pc_succ_eq_ofNat (pc : ProgAddr) : pc + 1#13 = BitVec.ofNat 13 (pc.toNat + 1) := by
  bv_omega

theorem exec_goto (k : BitVec 11) (s : State) : exec (.goto k) s = .next { s with pc := jumpTarget s k } := rfl

theorem exec_call_of_room {s : State} (h : s.stack.length ≠ s.cfg.stackDepth) (k : BitVec 11) :
    exec (.call k) s = .next { s with pc := jumpTarget s k, stack := (s.pc + 1#13) :: s.stack } := by
  simp only [exec, execCall, push_of_room h]

theorem exec_call_of_full {s : State} (h : s.stack.length = s.cfg.stackDepth) (k : BitVec 11) :
    exec (.call k) s = .refused .stackOverflow := by
  simp only [exec, execCall, push_of_full h]

/-- Settles O30: the encodings by the decoder's jump group, the rules by the target and the pushed address as
numbers. -/
theorem callAndGotoReachTheTarget : Obligations.CallAndGotoReachTheTarget := by
  refine ⟨fun _ => decode_call, fun _ => decode_goto, fun s k => ⟨?_, fun room => ?_, fun full => ?_⟩⟩
  · rw [exec_goto, jumpTarget_eq_ofNat]
  · rw [exec_call_of_room room, jumpTarget_eq_ofNat, pc_succ_eq_ofNat]
  · exact exec_call_of_full full k

/-- A CALL that completes leaves the address of the next word on top of the stack. -/
theorem exec_call_stack {s t : State} {k : BitVec 11} (h : exec (.call k) s = .next t) :
    t.stack = (s.pc + 1#13) :: s.stack := by
  by_cases full : s.stack.length = s.cfg.stackDepth
  · rw [exec_call_of_full full] at h; cases h
  · rw [exec_call_of_room full] at h; cases h; rfl

/-- Settles O36: RETURN pops what CALL has pushed. -/
theorem returnUndoesTheCall : Obligations.ReturnUndoesTheCall :=
  fun _ _ _ _ hcall hstack => exec_ret_cons (hstack.trans (exec_call_stack hcall))

/-- Settles O35: RETFIE pops what the interrupt entry has pushed. -/
theorem retfieUndoesTheInterruptEntry : Obligations.RetfieUndoesTheInterruptEntry := by
  intro s t h htakes hstack
  obtain ⟨-, rfl⟩ := takeInterrupt_cases htakes
  exact exec_retfie_cons hstack

/-! ### The interrupt entry -/

theorem takeInterrupt_of_room {s : State} (h : s.stack.length ≠ s.cfg.stackDepth) :
    takeInterrupt s = .ok { s with intcon := s.intcon &&& 0x7F#8, stack := s.pc :: s.stack, pc := 0x0004#13 } := by
  rw [takeInterrupt, push_of_room (s := { s with intcon := setBit s.intcon 7 false }) h, setBit_gie_false]

theorem takeInterrupt_of_full {s : State} (h : s.stack.length = s.cfg.stackDepth) :
    takeInterrupt s = .error .stackOverflow := by
  rw [takeInterrupt, push_of_full (s := { s with intcon := setBit s.intcon 7 false }) h]

/-- Settles O33: the entry with room on the stack and without. -/
theorem interruptEntrySavesPcAndMasks : Obligations.InterruptEntrySavesPcAndMasks :=
  fun _ => ⟨takeInterrupt_of_room, takeInterrupt_of_full⟩

/-! ### DECFSZ and INCFSZ (R216, R217) -/

theorem exec_decfsz (f : FileField) (d : Dest) (s : State) :
    exec (.decfsz f d) s = finish (byteSkipOp f d (fun v => v - 1#8) s) := rfl

theorem exec_incfsz (f : FileField) (d : Dest) (s : State) :
    exec (.incfsz f d) s = finish (byteSkipOp f d (fun v => v + 1#8) s) := rfl

/-- A store to PCL is refused (decision D12). -/
theorem byteSkipOp_pcl {f : FileField} {s : State} {v : Byte} (hread : memRead s (effAddr s f) = .ok v)
    (hpcl : inBank (effAddr s f) = 0x02#7) (alu : Byte → Byte) :
    byteSkipOp f .f alu s = .error .skipWithPclDestination := by
  simp only [byteSkipOp, hread, hpcl, and_self, if_true]

/-- A register other than PCL is written the same before and after the step of `pc`. -/
theorem writeReg_advance {s u : State} {fl : Bool} {v : Byte} {reg : FileReg} (hpcl : reg ≠ .pcl)
    (h : writeReg s fl v reg = .ok u) : writeReg s.advance fl v reg = .ok { u with pc := s.pc + 1#13 } := by
  cases reg
  case pcl => exact absurd rfl hpcl
  case eecon1 | eecon2 =>
    simp only [writeReg] at h
    split at h
    · next device => cases h; exact if_pos device
    · cases h
  all_goals (cases h; rfl)

/-- DECFSZ and INCFSZ on an accessible operand, PCL as destination excluded. -/
theorem byteSkipOp_completes {f : FileField} {d : Dest} {s : State} {v : Byte}
    (hacc : accessible s (effAddr s f) = true) (hread : memRead s (effAddr s f) = .ok v)
    (hpcl : ¬(d = .f ∧ inBank (effAddr s f) = 0x02#7)) (alu : Byte → Byte) :
    ∃ u, (d = .w → u = { s with w := alu v }) ∧ (d = .f → memWrite s (effAddr s f) false (alu v) = .ok u) ∧
      byteSkipOp f d alu s = .ok { u with pc := s.pc + if alu v == 0x00#8 then 2#13 else 1#13 } := by
  cases d with
  | w =>
    refine ⟨{ s with w := alu v }, fun _ => rfl, nofun, ?_⟩
    simp only [byteSkipOp, hread, hpcl, if_false, writeDest]
    exact congrArg Except.ok (skipIf_advance (alu v == 0x00#8) { s with w := alu v })
  | f =>
    obtain ⟨u, hwrite⟩ := memWrite_of_accessible hacc false (alu v)
    obtain ⟨reg, hreg, hstore⟩ := memWrite_cases hwrite
    have hbank : inBank (effAddr s f) ≠ 0x02#7 := fun h => hpcl ⟨rfl, h⟩
    have hne : reg ≠ .pcl := fun h => hbank ((fileReg_pcl_iff hreg).mp h)
    have hadvanced : memWrite s.advance (effAddr s f) false (alu v) = .ok { u with pc := s.pc + 1#13 } :=
      (memWrite_of_fileReg (s := s.advance) hreg false (alu v)).trans (writeReg_advance hne hstore)
    refine ⟨u, nofun, fun _ => hwrite, ?_⟩
    simp only [byteSkipOp, hread, hbank, and_false, if_false, writeDest, hadvanced]
    exact congrArg Except.ok (skipIf_advance (alu v == 0x00#8) { u with pc := s.pc })

/-- Settles O31: the encodings by the decoder's arms, the rules from the byte the operand reads, the result as a
number. -/
theorem countAndSkipIfZero : Obligations.CountAndSkipIfZero := by
  refine ⟨byteEncoding_decfsz, byteEncoding_incfsz, fun f d s hacc => ?_⟩
  obtain ⟨v, hread⟩ := memRead_of_accessible hacc
  have hbank : (effAddr s f).toNat % 0x80 = 0x02 ↔ inBank (effAddr s f) = 0x02#7 := (inBank_eq_iff _ 0x02#7).symm
  rw [hbank]
  constructor
  · rintro ⟨rfl, hpcl⟩
    rw [exec_decfsz, exec_incfsz, byteSkipOp_pcl hread hpcl, byteSkipOp_pcl hread hpcl]
    exact ⟨rfl, rfl⟩
  · intro hpcl
    obtain ⟨u, huw, huf, hdec⟩ := byteSkipOp_completes hacc hread hpcl (fun v => v - 1#8)
    obtain ⟨x, hxw, hxf, hinc⟩ := byteSkipOp_completes hacc hread hpcl (fun v => v + 1#8)
    simp only [byte_sub_one_eq_ofNat] at huw huf
    simp only [byte_add_one_eq_ofNat] at hxw hxf
    have hdecZero : v - 1#8 = 0#8 ↔ v.toNat = 1 := byte_sub_one_eq_zero_iff v
    have hincZero : v + 1#8 = 0#8 ↔ v.toNat = 0xFF := byte_add_one_eq_zero_iff v
    refine ⟨v, u, x, hread, fun hd => ⟨huw hd, hxw hd⟩, fun hd => ⟨huf hd, hxf hd⟩, ?_, ?_⟩
    · rw [exec_decfsz, hdec, finish_ok]
      simp only [beq_iff_eq, hdecZero]
    · rw [exec_incfsz, hinc, finish_ok]
      simp only [beq_iff_eq, hincZero]

end Sys2Proof.Machine
end

section
/-!
PROOFS. The step as a whole (00_scope.md R10): which kind of step the boundary and the state make, what each kind does,
and so the interrupt (60_exceptions.md R233, R237), sleep and wake-up (R246, R247), reset (70_reset_and_hazards.md R271)
and the environment (R240).
-/

namespace Sys2Proof.Machine

/-! ### The conditions of R10 -/

theorem watchdogFires_iff (b : Boundary) (s : State) :
    watchdogFires b s = true ↔ b.line = .wdtTimeout ∧ s.cfg.wdtEnabled = true := by
  rw [watchdogFires, Bool.and_eq_true, beq_iff_eq, and_comm]

theorem watchdogFires_eq_false {b : Boundary} {s : State} (h : ¬(b.line = .wdtTimeout ∧ s.cfg.wdtEnabled = true)) :
    watchdogFires b s = false :=
  Bool.eq_false_iff.mpr fun hw => h ((watchdogFires_iff b s).mp hw)

theorem intCond_iff (s : State) : intCond s = true ↔ s.intcon.getLsbD 7 = true ∧ SourcePending s := by
  simp only [intCond, SourcePending, State.eeif, Bool.and_eq_true, Bool.or_eq_true, or_assoc]

theorem wakeFlags_iff (s : State) :
    wakeFlags s = true ↔ (s.intcon.getLsbD 4 = true ∧ s.intcon.getLsbD 1 = true) ∨
      (s.intcon.getLsbD 3 = true ∧ s.intcon.getLsbD 0 = true) ∨
      (s.intcon.getLsbD 6 = true ∧ s.eecon1.getLsbD 4 = true) := by
  simp only [wakeFlags, State.eeif, Bool.and_eq_true, Bool.or_eq_true, or_assoc]

/-! ### The kind of a step -/

section Kind

variable {b : Boundary} {s : State}

theorem stepKind_mclr (h : b.line = .mclr) : stepKind b s = .reset .mclr := by
  rw [stepKind, if_pos h]

theorem stepKind_asleep (hmclr : b.line ≠ .mclr) (asleep : s.sleeping = true) :
    stepKind b s = if watchdogFires b s then .wake true else if wakeFlags s then .wake false else .idle := by
  rw [stepKind, if_neg hmclr, if_pos asleep]

theorem stepKind_watchdog (hline : b.line = .wdtTimeout) (henabled : s.cfg.wdtEnabled = true)
    (awake : s.sleeping = false) : stepKind b s = .reset .watchdog := by
  have hmclr : b.line ≠ .mclr := by rw [hline]; nofun
  rw [stepKind, if_neg hmclr, awake, (watchdogFires_iff b s).mpr ⟨hline, henabled⟩]
  rfl

theorem stepKind_awake (h : Awake b s) :
    stepKind b s =
      if intCond s then
        if b.deferInt && decide (s.deferred < s.cfg.intDeferMax) then .runDeferred else .interrupt
      else .run := by
  obtain ⟨awake, hmclr, hwdt⟩ := h
  rw [stepKind, if_neg hmclr, awake, watchdogFires_eq_false hwdt]
  rfl

theorem stepKind_run (h : Awake b s) (hint : ¬(s.intcon.getLsbD 7 = true ∧ SourcePending s)) : stepKind b s = .run := by
  rw [stepKind_awake h, if_neg (mt (intCond_iff s).mp hint)]

theorem stepKind_runDeferred (h : Awake b s) (hgie : s.intcon.getLsbD 7 = true) (hsource : SourcePending s)
    (hdefer : b.deferInt = true) (hroom : s.deferred < s.cfg.intDeferMax) : stepKind b s = .runDeferred := by
  rw [stepKind_awake h, if_pos ((intCond_iff s).mpr ⟨hgie, hsource⟩), hdefer, decide_eq_true hroom]
  rfl

theorem stepKind_interrupt (h : Awake b s) (hgie : s.intcon.getLsbD 7 = true) (hsource : SourcePending s)
    (hdue : b.deferInt = false ∨ s.cfg.intDeferMax ≤ s.deferred) : stepKind b s = .interrupt := by
  rw [stepKind_awake h, if_pos ((intCond_iff s).mpr ⟨hgie, hsource⟩), if_neg]
  rw [Bool.and_eq_true, decide_eq_true_eq]
  rintro ⟨hdefer, hroom⟩
  rcases hdue with hdue | hdue
  · exact Bool.false_ne_true (hdue.symm.trans hdefer)
  · omega

end Kind

/-- A watchdog that is disabled has no part in the kind of a step (decision D23). -/
theorem stepKind_of_disabled {b : Boundary} {s : State} (hline : b.line = .wdtTimeout)
    (hdisabled : s.cfg.wdtEnabled = false) : stepKind b s = stepKind { b with line := .quiet } s := by
  have hfires (b : Boundary) : watchdogFires b s = false := by rw [watchdogFires, hdisabled, Bool.false_and]
  simp only [stepKind, hfires, hline, reduceCtorEq]

/-! ### What each kind of step does -/

theorem fetchExec_of_decode {s : State} {w : InstrWord} {i : Instr} (hread : s.prog.read s.pc.toNat = some w)
    (hdec : decode w = .ok i) : fetchExec s = exec i s := by
  simp only [fetchExec, fetch, hread, hdec]

/-- Settles O5: the program lists no word at `pc`. -/
theorem fetchOutsideProgramIsRefused : Obligations.FetchOutsideProgramIsRefused := by
  intro s h
  simp only [fetchExec, fetch, h]

section Step

variable {s : State}

/-- The program and `pc` are those of before the boundary. -/
theorem openBoundary_read : (openBoundary s).prog.read (openBoundary s).pc.toNat = s.prog.read s.pc.toNat := by
  rw [openBoundary_prog, openBoundary_pc]

theorem step_reset {cause : ResetCause} (h : stepKind s.boundary (openBoundary s) = .reset cause) :
    step s = .next (resetAction cause (openBoundary s)) := by
  rw [step, coreStep, h]

theorem step_idle (h : stepKind s.boundary (openBoundary s) = .idle) : step s = .next (openBoundary s) := by
  rw [step, coreStep, h]

theorem step_interrupt (h : stepKind s.boundary (openBoundary s) = .interrupt) :
    step s = finish (takeInterrupt (openBoundary s).endDeferral) := by
  rw [step, coreStep, h]

variable {w : InstrWord} {i : Instr} (hread : s.prog.read s.pc.toNat = some w) (hdec : decode w = .ok i)
include hread hdec

theorem step_run (h : stepKind s.boundary (openBoundary s) = .run) :
    step s = exec i { openBoundary s with deferred := 0 } := by
  rw [step, coreStep, h]
  exact fetchExec_of_decode (s := (openBoundary s).endDeferral) (openBoundary_read.trans hread) hdec

theorem step_runDeferred (h : stepKind s.boundary (openBoundary s) = .runDeferred) :
    step s = exec i { openBoundary s with deferred := (openBoundary s).deferred + 1 } := by
  rw [step, coreStep, h]
  exact fetchExec_of_decode (s := (openBoundary s).countDeferral) (openBoundary_read.trans hread) hdec

theorem step_wake {byWatchdog : Bool} (h : stepKind s.boundary (openBoundary s) = .wake byWatchdog) :
    step s = exec i (wakeUp byWatchdog (openBoundary s)) := by
  rw [step, coreStep, h]
  exact fetchExec_of_decode (s := wakeUp byWatchdog (openBoundary s)) (openBoundary_read.trans hread) hdec

end Step

/-! ### Instruction and interrupt -/

/-- Settles O4, by the kind of the step. -/
theorem stepRunsTheDecodedInstruction : Obligations.StepRunsTheDecodedInstruction :=
  fun _ _ _ hawake hint hread hdec => step_run hread hdec (stepKind_run hawake hint)

/-- Settles O55, by the kind of the step. -/
theorem putOffInterruptRunsTheInstruction : Obligations.PutOffInterruptRunsTheInstruction := by
  intro s w i hawake hgie hsource hdefer hroom hread hdec
  have hroom' : (openBoundary s).deferred < (openBoundary s).cfg.intDeferMax := by
    rw [openBoundary_deferred, openBoundary_cfg]; exact hroom
  rw [step_runDeferred hread hdec (stepKind_runDeferred hawake hgie hsource hdefer hroom'), openBoundary_deferred]

/-- Settles O34, by the kind of the step and the two forms of the interrupt entry. -/
theorem dueInterruptReplacesTheFetch : Obligations.DueInterruptReplacesTheFetch := by
  intro s hawake hgie hsource hdue
  have hdue' : s.boundary.deferInt = false ∨ (openBoundary s).cfg.intDeferMax ≤ (openBoundary s).deferred := by
    rw [openBoundary_deferred, openBoundary_cfg]; exact hdue
  rw [step_interrupt (stepKind_interrupt hawake hgie hsource hdue')]
  have hstack : (openBoundary s).endDeferral.stack = s.stack := openBoundary_stack s
  have hcfg : (openBoundary s).endDeferral.cfg = s.cfg := openBoundary_cfg s
  constructor
  · intro room
    rw [takeInterrupt_of_room (by rw [hstack, hcfg]; exact room), finish_ok, hstack, State.endDeferral_pc,
      openBoundary_pc]
    rfl
  · intro full
    rw [takeInterrupt_of_full (by rw [hstack, hcfg]; exact full), finish_error]

/-! ### Sleep and wake-up -/

/-- Settles O37, by the kind of a sleeping core's step. -/
theorem sleepLastsUntilAnEnabledFlag : Obligations.SleepLastsUntilAnEnabledFlag := by
  intro s asleep hmclr hwdt
  have hkind := stepKind_asleep hmclr ((openBoundary_sleeping s).trans asleep)
  have hquiet : watchdogFires s.boundary (openBoundary s) = false :=
    watchdogFires_eq_false (by rw [openBoundary_cfg]; exact hwdt)
  rw [hquiet, if_neg Bool.false_ne_true] at hkind
  constructor
  · intro hflags
    rw [if_neg (mt (wakeFlags_iff _).mp hflags)] at hkind
    exact step_idle hkind
  · intro hflags w i hread hdec
    rw [if_pos ((wakeFlags_iff _).mpr hflags)] at hkind
    exact step_wake hread hdec hkind

/-! ### Reset -/

/-- The values of the reset line (R271) with the STATUS its cause gives, and the state the model keeps over a reset (log
10). -/
def ResetFrom (s t : State) (status : Byte) : Prop :=
  t.pc = 0x0000#13 ∧ t.pclath = 0b00000#5 ∧ t.status = status ∧ t.intcon = 0x00#8 ∧
    t.optionReg = 0xFF#8 ∧ t.trisA = 0xFF#8 ∧ t.trisB = 0xFF#8 ∧ t.eedata = 0x00#8 ∧ t.eeadr = 0 ∧ t.eecon1 = 0 ∧
    t.sleeping = false ∧ t.stack = [] ∧ t.prog = s.prog ∧ t.data = s.data ∧ t.w = s.w ∧ t.fsr = s.fsr ∧
    t.latA = s.latA ∧ t.latB = s.latB

theorem resetAction_openBoundary (cause : ResetCause) (s : State) :
    ResetFrom s (resetAction cause (openBoundary s)) (resetAction cause s).status :=
  ⟨rfl, rfl, rfl, rfl, rfl, rfl, rfl, rfl, rfl, rfl, rfl, rfl, openBoundary_prog s, openBoundary_data s,
    openBoundary_w s, openBoundary_fsr s, openBoundary_latA s, openBoundary_latB s⟩

/-- Settles O39: /MCLR comes first in the order of R10. -/
theorem mclrResetsFromEveryState : Obligations.MclrResetsFromEveryState :=
  fun s hline => ⟨_, step_reset (stepKind_mclr hline), resetAction_openBoundary .mclr s⟩

/-- /TO cleared, as a mask of STATUS. -/
theorem setBit_toN_false (v : Byte) : setBit v 4 false = v &&& 0xEF#8 := rfl

/-- Settles O38, by the kind of the step: a reset awake, a wake-up asleep, and without the watchdog as if the line were
quiet. -/
theorem watchdogTimeoutRestartsOrWakes : Obligations.WatchdogTimeoutRestartsOrWakes := by
  intro s hline
  have hcfg : (openBoundary s).cfg = s.cfg := openBoundary_cfg s
  refine ⟨fun henabled awake => ?_, fun henabled asleep w i hread hdec => ?_, fun hdisabled => ?_⟩
  · have hkind := stepKind_watchdog (s := openBoundary s) hline (by rw [hcfg]; exact henabled)
      ((openBoundary_sleeping s).trans awake)
    exact ⟨_, step_reset hkind, resetAction_openBoundary .watchdog s⟩
  · have hmclr : s.boundary.line ≠ .mclr := by rw [hline]; nofun
    have hfires : watchdogFires s.boundary (openBoundary s) = true :=
      (watchdogFires_iff _ _).mpr ⟨hline, by rw [hcfg]; exact henabled⟩
    have hkind := stepKind_asleep hmclr ((openBoundary_sleeping s).trans asleep)
    rw [if_pos hfires] at hkind
    rw [step_wake hread hdec hkind, wakeUp, if_pos rfl, setBit_toN_false, openBoundary_status]
  · rw [step, coreStep, coreStep, stepKind_of_disabled hline (by rw [hcfg]; exact hdisabled)]

/-- Settles O40, by evaluation of the reset state. -/
theorem resetStateHasTheListedValues : Obligations.ResetStateHasTheListedValues :=
  ⟨rfl, rfl, rfl, rfl, rfl, rfl, rfl, rfl, rfl, rfl, rfl, rfl⟩

/-! ### The environment (R240) -/

/-- The boundary changes no field but those named. -/
theorem openBoundary_eq (s : State) :
    openBoundary s = { s with
      intcon := (openBoundary s).intcon, eecon1 := (openBoundary s).eecon1, eeprom := (openBoundary s).eeprom,
      eePending := (openBoundary s).eePending, tmr0 := (openBoundary s).tmr0, pinsA := (openBoundary s).pinsA,
      pinsB := (openBoundary s).pinsB, tmr0Pre := (openBoundary s).tmr0Pre, wdt := (openBoundary s).wdt,
      wdtPre := (openBoundary s).wdtPre, env := s.env.tail, tick := s.tick + 1 } := by
  simp only [openBoundary, raiseFlags]
  split <;> rfl

/-- Each bit of INTCON after the boundary: the three flags may be raised, the others are as before. -/
theorem openBoundary_intcon_bit (s : State) {k : Nat} (hk : k < 8) :
    (openBoundary s).intcon.getLsbD k = (s.intcon.getLsbD k || (s.boundary.t0Overflow && decide (2 = k)) ||
      (s.boundary.intTrigger && decide (1 = k)) || (s.boundary.rbChange && decide (0 = k))) := by
  rw [openBoundary_intcon, BitVec.getLsbD_eq_getElem hk, BitVec.getElem_or, BitVec.getElem_or, BitVec.getElem_or,
    getElem_flagBit, getElem_flagBit, getElem_flagBit, BitVec.getLsbD_eq_getElem hk]

theorem openBoundary_intcon_high (s : State) : (openBoundary s).intcon.extractLsb' 3 5 = s.intcon.extractLsb' 3 5 := by
  ext j hj
  have h2 : ¬2 = 3 + j := by omega
  have h1 : ¬1 = 3 + j := by omega
  have h0 : ¬0 = 3 + j := by omega
  rw [BitVec.getElem_extractLsb', BitVec.getElem_extractLsb', openBoundary_intcon_bit s (by omega), decide_eq_false h2,
    decide_eq_false h1, decide_eq_false h0]
  simp only [Bool.and_false, Bool.or_false]

section EndOfWrite

variable {s : State}

/-- Without the device or without the event no EEPROM write ends. -/
theorem openBoundary_eeprom_idle (h : s.boundary.eeComplete = false ∨ s.cfg.eepromDevice = false) :
    (openBoundary s).eecon1 = s.eecon1 ∧ (openBoundary s).eeprom = s.eeprom ∧
      (openBoundary s).eePending = s.eePending := by
  have hoff : (s.boundary.eeComplete && s.cfg.eepromDevice) = false := by rcases h with h | h <;> simp [h]
  simp [hoff]

/-- With both the write in progress ends. -/
theorem openBoundary_eeprom_ends (hevent : s.boundary.eeComplete = true) (hdev : s.cfg.eepromDevice = true) :
    (openBoundary s).eecon1 = (completeEepromWrite s).eecon1 ∧
      (openBoundary s).eeprom = (completeEepromWrite s).eeprom ∧ (openBoundary s).eePending = none := by
  have hon : (s.boundary.eeComplete && s.cfg.eepromDevice) = true := by rw [hevent, hdev]; rfl
  simp [hon]

/-- EEIF after the boundary. -/
theorem openBoundary_eeif : (openBoundary s).eecon1.getLsbD 4 =
    (s.eecon1.getLsbD 4 || (s.boundary.eeComplete && s.cfg.eepromDevice)) := by
  rw [openBoundary_eecon1]
  cases s.boundary.eeComplete && s.cfg.eepromDevice with
  | false => rw [if_neg Bool.false_ne_true, Bool.or_false]
  | true => rw [if_pos rfl, completeEepromWrite_eecon1_bit s (by decide), Bool.or_true]; rfl

/-- The EEPROM after the end of a write: the latched byte at the latched address, and every other byte as before. -/
theorem completeEepromWrite_read {a : BitVec 6} {v : Byte} (h : s.eePending = some (a, v)) :
    (∀ r : Nat, r ≠ a.toNat → (completeEepromWrite s).eeprom.read r = s.eeprom.read r) ∧
      (s.eeprom.wf 0x40 = true → (completeEepromWrite s).eeprom.read a.toNat = v) := by
  rw [completeEepromWrite_eeprom h]
  exact ⟨fun r hr => Memory.read_write_ne hr.symm _ _, fun hwf => Memory.read_write_same hwf _ _⟩

theorem completeEepromWrite_none (h : s.eePending = none) : (completeEepromWrite s).eeprom = s.eeprom := by
  simp only [completeEepromWrite, h]

end EndOfWrite

/-- Settles O41: the fields by the form of the boundary, INTCON bit by bit, the EEPROM by whether a write ends. -/
theorem environmentOnlyRaisesFlags : Obligations.EnvironmentOnlyRaisesFlags := by
  intro s
  refine ⟨openBoundary s, rfl, openBoundary_eq s, openBoundary_intcon_high s, ?_, ?_, ?_, openBoundary_eeif,
    openBoundary_eeprom_idle, fun hevent hdev => ?_⟩
  · rw [openBoundary_intcon_bit s (by decide)]; simp
  · rw [openBoundary_intcon_bit s (by decide)]; simp
  · rw [openBoundary_intcon_bit s (by decide)]; simp
  · obtain ⟨hcon, hprom, hpending⟩ := openBoundary_eeprom_ends hevent hdev
    rw [hcon, hprom]
    have hbit (k : Nat) (hk : k < 5) := completeEepromWrite_eecon1_bit s hk
    exact ⟨hpending, hbit 4 (by decide), hbit 3 (by decide), hbit 2 (by decide), hbit 1 (by decide), hbit 0 (by decide),
      completeEepromWrite_none, fun _ _ => completeEepromWrite_read⟩

end Sys2Proof.Machine
end

section
/-!
PROOFS. The frames of the instructions (10_state.md, 20_memory.md): what they do not look at, by running them on a state
with that part overwritten, and what they do not change, by the forms of a next state (`ExecCase`) and the frame of a
register write (`WriteFrame`).
-/

namespace Sys2Proof.Machine

/-! ### A state with the program or W overwritten -/

/-- The state with the program and W replaced where a replacement is given. -/
def State.overwrite (p : Option Program) (x : Option Byte) (s : State) : State :=
  { s with prog := p.getD s.prog, w := x.getD s.w }

/-- A replaced part stays replaced when an answer becomes an outcome. -/
theorem finish_of_eq_map {g : State → State} {r r' : Except Refusal State} (h : r' = r.map g) :
    finish r' = mapNext g (finish r) := by
  subst h
  cases r <;> rfl

section Overwrite

variable (p : Option Program) (x : Option Byte) (s : State)

theorem effAddr_overwrite (f : FileField) : effAddr (s.overwrite p x) f = effAddr s f := rfl

theorem advance_overwrite : (s.overwrite p x).advance = s.advance.overwrite p x := rfl

theorem readReg_overwrite (reg : FileReg) : readReg (s.overwrite p x) reg = readReg s reg := by
  cases reg <;> rfl

theorem memRead_overwrite (a : FileAddr) : memRead (s.overwrite p x) a = memRead s a := by
  simp only [memRead, readReg_overwrite]
  rfl

theorem writeReg_overwrite (fl : Bool) (v : Byte) (reg : FileReg) :
    writeReg (s.overwrite p x) fl v reg = (writeReg s fl v reg).map (State.overwrite p x) := by
  cases reg
  case eecon1 | eecon2 =>
    by_cases device : s.cfg.eepromDevice = true
    · simp only [writeReg, if_pos device]; exact if_pos device
    · simp only [writeReg, if_neg device]; exact if_neg device
  all_goals rfl

theorem memWrite_overwrite (a : FileAddr) (fl : Bool) (v : Byte) :
    memWrite (s.overwrite p x) a fl v = (memWrite s a fl v).map (State.overwrite p x) := by
  cases hreg : fileReg s.cfg a with
  | error e => rw [memWrite_of_fileReg_error hreg, memWrite_of_fileReg_error (s := s.overwrite p x) hreg]; rfl
  | ok reg => rw [memWrite_of_fileReg hreg, memWrite_of_fileReg (s := s.overwrite p x) hreg, writeReg_overwrite]

/-- The destination W is compatible with a replaced program alone. -/
theorem writeDest_overwrite {d : Dest} (h : x = none ∨ d = .f) (a : FileAddr) (fl : Bool) (v : Byte) :
    writeDest (s.overwrite p x) d a fl v = (writeDest s d a fl v).map (State.overwrite p x) := by
  cases d with
  | w =>
    obtain rfl : x = none := h.resolve_right nofun
    rfl
  | f => exact memWrite_overwrite p x s a fl v

theorem skipIf_overwrite (skip : Bool) : skipIf skip (s.overwrite p x) = (skipIf skip s).overwrite p x := by
  cases skip <;> rfl

theorem byteOp_overwrite {d : Dest} (h : x = none ∨ d = .f) (f : FileField) (alu : Byte → AluResult) :
    byteOp f d alu (s.overwrite p x) = (byteOp f d alu s).map (State.overwrite p x) := by
  simp only [byteOp, effAddr_overwrite, memRead_overwrite, advance_overwrite, writeDest_overwrite p x _ h]
  cases memRead s (effAddr s f) with
  | error e => rfl
  | ok v =>
    dsimp only
    cases writeDest s.advance d (effAddr s f) (alu v).flags.writesAny (alu v).value <;> rfl

theorem storeOp_overwrite (f : FileField) (out : AluResult) :
    storeOp f out (s.overwrite p x) = (storeOp f out s).map (State.overwrite p x) := by
  simp only [storeOp, effAddr_overwrite, advance_overwrite, memWrite_overwrite]
  cases memWrite s.advance (effAddr s f) out.flags.writesAny out.value <;> rfl

theorem byteSkipOp_overwrite {d : Dest} (h : x = none ∨ d = .f) (f : FileField) (alu : Byte → Byte) :
    byteSkipOp f d alu (s.overwrite p x) = (byteSkipOp f d alu s).map (State.overwrite p x) := by
  simp only [byteSkipOp, effAddr_overwrite, memRead_overwrite, advance_overwrite, writeDest_overwrite p x _ h]
  cases memRead s (effAddr s f) with
  | error e => rfl
  | ok v =>
    dsimp only
    split
    · rfl
    · cases writeDest s.advance d (effAddr s f) false (alu v) with
      | error e => rfl
      | ok t => exact congrArg Except.ok (skipIf_overwrite p x t _)

theorem bitSkipOp_overwrite (f : FileField) (b : BitIndex) (want : Bool) :
    bitSkipOp f b want (s.overwrite p x) = (bitSkipOp f b want s).map (State.overwrite p x) := by
  simp only [bitSkipOp, effAddr_overwrite, memRead_overwrite, advance_overwrite, skipIf_overwrite]
  cases memRead s (effAddr s f) <;> rfl

theorem popToPc_overwrite : popToPc (s.overwrite p x) = (popToPc s).map (State.overwrite p x) := by
  cases hstack : s.stack with
  | nil => rw [popToPc_nil hstack, popToPc_nil (s := s.overwrite p x) hstack]; rfl
  | cons a rest => rw [popToPc_cons hstack, popToPc_cons (s := s.overwrite p x) hstack]; rfl

theorem returnFromInterrupt_overwrite :
    returnFromInterrupt (s.overwrite p x) = (returnFromInterrupt s).map (State.overwrite p x) := by
  simp only [returnFromInterrupt, popToPc_overwrite]
  cases popToPc s <;> rfl

theorem exec_call_overwrite (k : BitVec 11) :
    exec (.call k) (s.overwrite p x) = mapNext (State.overwrite p x) (exec (.call k) s) := by
  by_cases full : s.stack.length = s.cfg.stackDepth
  · rw [exec_call_of_full full, exec_call_of_full (s := s.overwrite p x) full]; rfl
  · rw [exec_call_of_room full, exec_call_of_room (s := s.overwrite p x) full]; rfl

end Overwrite

/-- An instruction with a destination bit that does not write W stores to its file operand. -/
theorem eq_f_of_not_writesW {i : Instr} {d : Dest} (hd : destOperand i = some d) (hw : writesW i = false) : d = .f := by
  cases d with
  | f => rfl
  | w =>
    have hwrites : writesW i = true := by
      unfold writesW
      split
      case h_9 => rw [hd]; rfl
      all_goals rfl
    exact absurd (hw.symm.trans hwrites) Bool.false_ne_true

/-- A replacement of W is compatible with an instruction that neither reads nor writes W; one of the program with every
instruction. -/
theorem exec_overwrite (i : Instr) (s : State) (p : Option Program) (x : Option Byte)
    (h : x = none ∨ (writesW i = false ∧ readsW i = false)) :
    exec i (s.overwrite p x) = mapNext (State.overwrite p x) (exec i s) := by
  cases i with
  | nop | sleep | clrwdt | goto _ => rfl
  | ret => exact finish_of_eq_map (popToPc_overwrite p x s)
  | retfie => exact finish_of_eq_map (returnFromInterrupt_overwrite p x s)
  | call k => exact exec_call_overwrite p x s k
  | clrf f => exact finish_of_eq_map (storeOp_overwrite p x s f _)
  | bcf f b | bsf f b => exact finish_of_eq_map (byteOp_overwrite p x s (.inr rfl) f _)
  | btfsc f b | btfss f b => exact finish_of_eq_map (bitSkipOp_overwrite p x s f b _)
  | decf f d | movf f d | comf f d | incf f d | rrf f d | rlf f d | swapf f d =>
    have hd : x = none ∨ d = .f := h.imp_right fun hw => eq_f_of_not_writesW rfl hw.1
    exact finish_of_eq_map (byteOp_overwrite p x s hd f _)
  | decfsz f d | incfsz f d =>
    have hd : x = none ∨ d = .f := h.imp_right fun hw => eq_f_of_not_writesW rfl hw.1
    exact finish_of_eq_map (byteSkipOp_overwrite p x s hd f _)
  | subwf f d | iorwf f d | andwf f d | xorwf f d | addwf f d =>
    obtain rfl : x = none := h.resolve_right fun hw => nomatch hw.2
    exact finish_of_eq_map (byteOp_overwrite p none s (.inl rfl) f _)
  | movwf f =>
    obtain rfl : x = none := h.resolve_right fun hw => nomatch hw.2
    exact finish_of_eq_map (storeOp_overwrite p none s f _)
  | tris f =>
    obtain rfl : x = none := h.resolve_right fun hw => nomatch hw.2
    simp only [exec, execTris]
    split
    · rfl
    · split <;> rfl
  | option | iorlw k | andlw k | xorlw k | sublw k | addlw k =>
    obtain rfl : x = none := h.resolve_right fun hw => nomatch hw.2
    rfl
  | clrw | movlw k =>
    obtain rfl : x = none := h.resolve_right fun hw => nomatch hw.1
    rfl
  | retlw k =>
    obtain rfl : x = none := h.resolve_right fun hw => nomatch hw.1
    exact finish_of_eq_map (popToPc_overwrite p none { s with w := k })

/-- Settles O47: the program is a part that every instruction can be run with replaced. -/
theorem noInstructionLooksAtProgramMemory : Obligations.NoInstructionLooksAtProgramMemory :=
  fun i s p => exec_overwrite i s (some p) none (.inl rfl)

/-! ### W -/

theorem exec_w_of_not_writesW {i : Instr} {s t : State} (h : exec i s = .next t) (hw : writesW i = false) :
    t.w = s.w := by
  cases exec_cases h with
  | store a reg v fl u skip dst names writes => rw [skipIf_eq]; exact (writeReg_frame writes).w
  | result _ _ _ _ _ toW => exact absurd (hw.symm.trans toW) Bool.false_ne_true
  | move => rw [skipIf_eq]; rfl
  | pop _ _ _ _ _ _ _ keepsW => exact keepsW hw
  | _ => rfl

/-- Settles O53: the frame of W, and W as a part that can be replaced. -/
theorem wIsUsedOnlyByItsReadersAndWriters : Obligations.WIsUsedOnlyByItsReadersAndWriters :=
  ⟨fun _ _ _ => exec_w_of_not_writesW, fun i s x hw hr => exec_overwrite i s none (some x) (.inr ⟨hw, hr⟩)⟩

/-! ### STATUS (R26 to R30) -/

/-- The flag writes of an instruction leave /TO and /PD. -/
theorem setFlags_toPd (s : State) (u : FlagUpdate) : (s.setFlags u).toN = s.toN ∧ (s.setFlags u).pdN = s.pdN := by
  simp only [State.toN, State.pdN, State.setFlags_status, BitVec.getLsbD_eq_getElem (by decide : 4 < 8),
    BitVec.getLsbD_eq_getElem (by decide : 3 < 8)]
  exact ⟨u.apply_high s.status (by decide) (by decide), u.apply_high s.status (by decide) (by decide)⟩

/-- Settles O48: a register write keeps both bits, and so do the flag writes. -/
theorem onlySleepAndClrwdtChangeToAndPd : Obligations.OnlySleepAndClrwdtChangeToAndPd := by
  intro i s t h hsleep hclrwdt
  cases exec_cases h with
  | store a reg v fl u skip dst names writes =>
    obtain ⟨hto, hpd⟩ := writeReg_toPd writes
    obtain ⟨hto', hpd'⟩ := setFlags_toPd u fl
    rw [skipIf_eq]
    exact ⟨hto'.trans hto, hpd'.trans hpd⟩
  | result v fl skip => rw [skipIf_eq]; exact setFlags_toPd { s.advance with w := v } fl
  | move => rw [skipIf_eq]; exact ⟨rfl, rfl⟩
  | sleep is => exact absurd is hsleep
  | clrwdt is => exact absurd is hclrwdt
  | _ => exact ⟨rfl, rfl⟩

end Sys2Proof.Machine
end

section
/-!
PROOFS. What an instruction writes (10_state.md R23 to R42, 20_memory.md R88, 47_jumps_system.md R208): the flags, the
special registers, the data memory, the stack and `pc`, each by the forms of a next state; and which steps clear an
interrupt flag or change the stack.
-/

namespace Sys2Proof.Machine

/-! ### Z, DC and C (R27 to R29) -/

/-- A flag that is not written keeps its bit of STATUS. -/
theorem FlagUpdate.apply_low_bit {fl : FlagUpdate} {v : Byte} :
    (fl.z.isSome = false → (fl.apply v).getLsbD 2 = v.getLsbD 2) ∧
      (fl.dc.isSome = false → (fl.apply v).getLsbD 1 = v.getLsbD 1) ∧
      (fl.c.isSome = false → (fl.apply v).getLsbD 0 = v.getLsbD 0) := by
  refine ⟨fun h => ?_, fun h => ?_, fun h => ?_⟩ <;>
    simp [Option.isNone_iff_eq_none.mp (Option.isSome_eq_false_iff.mp h)]

/-- A store by an instruction with flags of its own leaves the flags for them to write (R30, R87). -/
theorem writeReg_status_low {s u : State} {fl : Bool} {v : Byte} {reg : FileReg}
    (h : writeReg s fl v reg = .ok u) (hfl : reg = .status → fl = true) {k : Nat} (hk : k < 3) :
    u.status.getLsbD k = s.status.getLsbD k := by
  by_cases hs : reg = .status
  · obtain rfl := hfl hs
    subst hs
    cases h
    interval_cases k <;> simp [mergeStatus]
  · rw [(writeReg_frame h).status hs]

/-- The flags the instruction's own rule does not write are as before. -/
def FlagsKept (i : Instr) (s t : State) : Prop :=
  (writesZ i = false → t.flagZ = s.flagZ) ∧ (writesDC i = false → t.flagDC = s.flagDC) ∧
    (writesC i = false → t.flagC = s.flagC)

/-- The flag writes of an instruction over a STATUS whose flags are as before. -/
theorem FlagsKept.setFlags {i : Instr} {s u : State} {fl : FlagUpdate} (hfl : FlagsOf i fl)
    (hlow : ∀ k < 3, u.status.getLsbD k = s.status.getLsbD k) : FlagsKept i s (u.setFlags fl) := by
  obtain ⟨hz, hdc, hc⟩ := hfl
  obtain ⟨kz, kdc, kc⟩ := FlagUpdate.apply_low_bit (fl := fl) (v := u.status)
  exact ⟨fun h => (kz (hz.trans h)).trans (hlow 2 (by decide)), fun h => (kdc (hdc.trans h)).trans (hlow 1 (by decide)),
    fun h => (kc (hc.trans h)).trans (hlow 0 (by decide))⟩

theorem FlagsKept.of_status {i : Instr} {s t : State} (h : ∀ k < 3, t.status.getLsbD k = s.status.getLsbD k) :
    FlagsKept i s t :=
  ⟨fun _ => h 2 (by decide), fun _ => h 1 (by decide), fun _ => h 0 (by decide)⟩

/-- SLEEP and CLRWDT write /TO and /PD alone. -/
theorem setToPd_low (s : State) (x y : Bool) {k : Nat} (hk : k < 3) :
    (s.setToPd x y).status.getLsbD k = s.status.getLsbD k := by
  rw [State.setToPd_status, getLsbD_setBit, getLsbD_setBit, if_neg (by omega), if_neg (by omega)]

/-- Settles O49: a store leaves the flags to the flag writes, which write those of the instruction's rule. -/
theorem flagsChangeOnlyByTheirWriters : Obligations.FlagsChangeOnlyByTheirWriters := by
  intro i s t h hstatus
  cases exec_cases h with
  | store a reg v fl u skip dst names writes flags =>
    have hown : reg = .status → fl.writesAny = true := by
      rintro rfl
      obtain ⟨hz, hdc, hc⟩ := flags
      rw [FlagUpdate.writesAny, hz, hdc, hc, Bool.or_eq_true, Bool.or_eq_true, or_assoc]
      exact hstatus ⟨a, dst, names⟩
    rw [skipIf_eq]
    exact FlagsKept.setFlags (s := s) flags fun k hk => writeReg_status_low writes hown hk
  | result v fl skip dst flags =>
    rw [skipIf_eq]
    exact FlagsKept.setFlags (s := s) (u := { s.advance with w := v }) flags fun _ _ => rfl
  | move => rw [skipIf_eq]; exact FlagsKept.of_status fun _ _ => rfl
  | sleep => exact FlagsKept.of_status fun _ hk => setToPd_low s true false hk
  | clrwdt => exact FlagsKept.of_status fun _ hk => setToPd_low s true true hk
  | _ => exact FlagsKept.of_status fun _ _ => rfl

/-! ### The special registers -/

/-- Bits 7..5 of STATUS: IRP, RP1, RP0. -/
theorem setFlags_bank (s : State) (u : FlagUpdate) :
    (s.setFlags u).status.extractLsb' 5 3 = s.status.extractLsb' 5 3 := by
  ext j hj
  rw [BitVec.getElem_extractLsb', BitVec.getElem_extractLsb', BitVec.getLsbD_eq_getElem (by omega),
    BitVec.getLsbD_eq_getElem (by omega)]
  exact u.apply_high s.status (by omega) (by omega)

theorem setToPd_bank (s : State) (x y : Bool) : (s.setToPd x y).status.extractLsb' 5 3 = s.status.extractLsb' 5 3 := by
  ext j hj
  rw [BitVec.getElem_extractLsb', BitVec.getElem_extractLsb', State.setToPd_status, getLsbD_setBit, getLsbD_setBit,
    if_neg (by omega), if_neg (by omega)]

/-- What an instruction leaves of the special registers unless it stores to them or is named for them. -/
structure SpecialFrame (i : Instr) (s t : State) : Prop where
  fsr : ¬StoresReg i s .fsr → t.fsr = s.fsr
  pclath : ¬StoresReg i s .pclath → t.pclath = s.pclath
  intcon : ¬StoresReg i s .intcon → i ≠ .retfie → t.intcon = s.intcon
  optionReg : ¬StoresReg i s .option → i ≠ .option → t.optionReg = s.optionReg
  trisA : ¬StoresReg i s .trisA → i ≠ .tris 5#3 → t.trisA = s.trisA
  trisB : ¬StoresReg i s .trisB → i ≠ .tris 6#3 → t.trisB = s.trisB
  latA : ¬StoresReg i s .portA → t.latA = s.latA
  latB : ¬StoresReg i s .portB → t.latB = s.latB
  tmr0 : ¬StoresReg i s .tmr0 → t.tmr0 = s.tmr0
  eeadr : ¬StoresReg i s .eeadr → t.eeadr = s.eeadr
  eedata : ¬StoresReg i s .eedata → ¬StoresReg i s .eecon1 → t.eedata = s.eedata
  eecon1 : ¬StoresReg i s .eecon1 → t.eecon1 = s.eecon1 ∧ t.eePending = s.eePending
  eeUnlock : ¬StoresReg i s .eecon1 → ¬StoresReg i s .eecon2 → t.eeUnlock = s.eeUnlock
  bank : ¬StoresReg i s .status → t.status.extractLsb' 5 3 = s.status.extractLsb' 5 3
  sleeping : i ≠ .sleep → t.sleeping = s.sleeping
  watchdog : i ≠ .sleep → i ≠ .clrwdt → t.wdt = s.wdt ∧ t.wdtPre = s.wdtPre

/-- A register write by an instruction that stores to that register. -/
theorem SpecialFrame.of_write {i : Instr} {s u : State} {a : FileAddr} {reg : FileReg} {fl : Bool} {v : Byte}
    (dst : storesTo i s = some a) (names : fileReg s.cfg a = .ok reg) (writes : writeReg s.advance fl v reg = .ok u) :
    SpecialFrame i s u := by
  have hframe := writeReg_frame writes
  have hne {r : FileReg} (h : ¬StoresReg i s r) : reg ≠ r := fun hr => h ⟨a, dst, hr ▸ names⟩
  exact {
    fsr := fun h => hframe.fsr (hne h)
    pclath := fun h => hframe.pclath (hne h)
    intcon := fun h _ => hframe.intcon (hne h)
    optionReg := fun h _ => hframe.optionReg (hne h)
    trisA := fun h _ => hframe.trisA (hne h)
    trisB := fun h _ => hframe.trisB (hne h)
    latA := fun h => hframe.latA (hne h)
    latB := fun h => hframe.latB (hne h)
    tmr0 := fun h => hframe.tmr0 (hne h)
    eeadr := fun h => hframe.eeadr (hne h)
    eedata := fun h h' => hframe.eedata (hne h) (hne h')
    eecon1 := fun h => ⟨hframe.eecon1 (hne h), hframe.eePending (hne h)⟩
    eeUnlock := fun h h' => hframe.eeUnlock (hne h) (hne h')
    bank := fun h => congrArg (·.extractLsb' 5 3) (hframe.status (hne h))
    sleeping := fun _ => hframe.sleeping
    watchdog := fun _ _ => ⟨hframe.wdt, hframe.wdtPre⟩ }

/-- Flag writes, the step of `pc` and a new W are no part of the frame. -/
theorem SpecialFrame.setFlags {i : Instr} {s u : State} (h : SpecialFrame i s u) (fl : FlagUpdate) :
    SpecialFrame i s (u.setFlags fl) :=
  { h with bank := fun hs => (setFlags_bank u fl).trans (h.bank hs) }

theorem SpecialFrame.skipIf {i : Instr} {s u : State} (h : SpecialFrame i s u) (skip : Bool) :
    SpecialFrame i s (skipIf skip u) := by
  rw [skipIf_eq]; exact { h with }

theorem SpecialFrame.refl (i : Instr) (s : State) : SpecialFrame i s s where
  fsr _ := rfl
  pclath _ := rfl
  intcon _ _ := rfl
  optionReg _ _ := rfl
  trisA _ _ := rfl
  trisB _ _ := rfl
  latA _ := rfl
  latB _ := rfl
  tmr0 _ := rfl
  eeadr _ := rfl
  eedata _ _ := rfl
  eecon1 _ := ⟨rfl, rfl⟩
  eeUnlock _ _ := rfl
  bank _ := rfl
  sleeping _ := rfl
  watchdog _ _ := ⟨rfl, rfl⟩

theorem exec_specialFrame {i : Instr} {s t : State} (h : exec i s = .next t) : SpecialFrame i s t := by
  have hrefl := SpecialFrame.refl i s
  cases exec_cases h with
  | store a reg v fl u skip dst names writes => exact ((SpecialFrame.of_write dst names writes).setFlags fl).skipIf skip
  | result v fl skip =>
    have hw : SpecialFrame i s { s.advance with w := v } := { hrefl with }
    exact (hw.setFlags fl).skipIf skip
  | move skip =>
    have hpc : SpecialFrame i s s.advance := { hrefl with }
    exact hpc.skipIf skip
  | pop _ _ _ _ _ _ _ _ keepsInt => exact { hrefl with intcon := fun _ => keepsInt }
  | option is => exact { hrefl with optionReg := fun _ hne => absurd is hne }
  | trisA is => exact { hrefl with trisA := fun _ hne => absurd is hne }
  | trisB is => exact { hrefl with trisB := fun _ hne => absurd is hne }
  | sleep is =>
    exact { hrefl with
      bank := fun _ => setToPd_bank s true false
      sleeping := fun hne => absurd is hne
      watchdog := fun hne _ => absurd is hne }
  | clrwdt is =>
    exact { hrefl with
      bank := fun _ => setToPd_bank s true true
      watchdog := fun _ hne => absurd is hne }
  | _ => exact { hrefl with }

/-- Settles O51: the frame of the special registers and the state no instruction writes. -/
theorem specialRegistersChangeOnlyByTheirWriters : Obligations.SpecialRegistersChangeOnlyByTheirWriters := by
  intro i s t h
  have hs := exec_specialFrame h
  have hk := exec_keeps h
  exact ⟨hs.fsr, hs.pclath, hs.intcon, hs.optionReg, hs.trisA, hs.trisB, hs.latA, hs.latB, hs.tmr0, hs.eeadr, hs.eedata,
    hs.eecon1, hs.eeUnlock, hs.bank, hs.sleeping, hs.watchdog, hk.eeprom, hk.prog, hk.cfg, hk.pinsA, hk.pinsB,
    hk.tmr0Pre, hk.env, hk.tick, hk.deferred⟩

/-! ### The data memory (R88) -/

/-- A register write leaves every data byte but the one at the address. -/
theorem writeReg_data_read {s u : State} {fl : Bool} {v : Byte} {a : FileAddr} {reg : FileReg}
    (names : fileReg s.cfg a = .ok reg) (h : writeReg s fl v reg = .ok u) {r : Nat} (hr : r ≠ (inBank a).toNat) :
    u.data.read r = s.data.read r := by
  by_cases hdata : ∃ q, reg = .data q
  · obtain ⟨q, rfl⟩ := hdata
    cases h
    obtain ⟨rfl, -⟩ := fileReg_data names
    exact Memory.read_write_ne hr.symm s.data v
  · rw [(writeReg_frame h).data fun q hq => hdata ⟨q, hq⟩]

/-- The data memory changes only by a store, and then only at its address. -/
theorem exec_data_read {i : Instr} {s t : State} (h : exec i s = .next t) {r : Nat}
    (hr : ∀ a, storesTo i s = some a → r ≠ (inBank a).toNat) : t.data.read r = s.data.read r := by
  cases exec_cases h with
  | store a reg v fl u skip dst names writes =>
    rw [skipIf_eq]
    exact writeReg_data_read (s := s.advance) names writes (hr a dst)
  | result => rw [skipIf_eq]; rfl
  | move => rw [skipIf_eq]; rfl
  | _ => rfl

/-- Settles O52: an instruction stores to one address or to none. -/
theorem dataMemoryChangesOnlyAtTheStoredAddress : Obligations.DataMemoryChangesOnlyAtTheStoredAddress := by
  intro i s t h
  refine ⟨fun hnone r => exec_data_read h fun a ha => ?_, fun a ha r hr => exec_data_read h fun a' ha' => ?_⟩
  · exact nomatch hnone.symm.trans ha
  · obtain rfl := Option.some.inj (ha.symm.trans ha')
    exact hr

/-! ### The program counter (R208) -/

/-- `pc` after the step and a skip. -/
theorem pc_skip (pc : ProgAddr) (skip : Bool) (isSkip : Bool) (h : skip = true → isSkip = true) :
    pc + 1#13 + (if skip then 1#13 else 0#13) = pc + 1#13 ∨
      (isSkip = true ∧ pc + 1#13 + (if skip then 1#13 else 0#13) = pc + 2#13) := by
  cases skip with
  | false => exact Or.inl (BitVec.add_zero _)
  | true => exact Or.inr ⟨h rfl, BitVec.add_assoc ..⟩

/-- The target of CALL and GOTO lies in the page of PCLATH[4:3]. -/
theorem jumpTarget_page (s : State) (k : BitVec 11) : (jumpTarget s k).toNat / 0x800 = s.pclath.toNat / 8 := by
  have hk : k.toNat < 0x800 := k.isLt
  have hp : s.pclath.toNat < 0x20 := s.pclath.isLt
  rw [jumpTarget_eq_ofNat, BitVec.toNat_ofNat]
  omega

/-- Settles O54, by the forms of a next state: a store to PCL is the one that does not step. -/
theorem pcChangesOnlyInTheListedWays : Obligations.PcChangesOnlyInTheListedWays := by
  intro i s t h
  cases exec_cases h with
  | store a reg v fl u skip dst names writes _ _ _ _ skips notPcl =>
    rw [skipIf_eq]
    by_cases hpcl : reg = .pcl
    · subst hpcl
      cases writes
      have hskip : isSkip i = false := Bool.eq_false_iff.mpr fun hi => notPcl hi rfl
      obtain rfl : skip = false := Bool.eq_false_iff.mpr fun hs => Bool.false_ne_true (hskip.symm.trans (skips hs))
      refine Or.inr (Or.inr (Or.inr (Or.inr ⟨⟨a, dst, names⟩, hskip, ?_⟩)))
      change (s.pclath ++ v + 0#13).toNat / 0x100 = s.pclath.toNat
      rw [BitVec.add_zero, toNat_append_eq_add]
      have hv := v.isLt
      omega
    · have hpc : (u.setFlags fl).pc = s.pc + 1#13 := (writeReg_frame writes).pc hpcl
      rw [hpc]
      exact (pc_skip s.pc skip (isSkip i) skips).imp_right Or.inl
  | result v fl skip _ _ _ _ skips =>
    rw [skipIf_eq]
    exact (pc_skip s.pc skip (isSkip i) skips).imp_right Or.inl
  | move skip _ _ skips =>
    rw [skipIf_eq]
    exact (pc_skip s.pc skip (isSkip i) skips).imp_right Or.inl
  | pop a rest w intcon is _ top => exact Or.inr (Or.inr (Or.inr (Or.inl ⟨is, top⟩)))
  | call k is => exact Or.inr (Or.inr (Or.inl ⟨by rw [is]; rfl, jumpTarget_page s k⟩))
  | goto k is => exact Or.inr (Or.inr (Or.inl ⟨by rw [is]; rfl, jumpTarget_page s k⟩))
  | _ => exact Or.inl rfl

/-! ### The state a step runs its instruction in -/

section EffAddr

variable {s u : State} (hirp : u.irp = s.irp) (hrp1 : u.rp1 = s.rp1) (hrp0 : u.rp0 = s.rp0) (hfsr : u.fsr = s.fsr)
include hirp hrp1 hrp0 hfsr

/-- The effective address comes from IRP, RP1, RP0 and FSR alone. -/
theorem effAddr_congr (f : FileField) : effAddr u f = effAddr s f := by
  rw [effAddr, effAddr, hirp, hrp1, hrp0, hfsr]

end EffAddr

theorem effAddr_openBoundary (s : State) (f : FileField) : effAddr (openBoundary s) f = effAddr s f := by
  have hstatus := openBoundary_status s
  exact effAddr_congr (congrArg (·.getLsbD 7) hstatus) (congrArg (·.getLsbD 6) hstatus) (congrArg (·.getLsbD 5) hstatus)
    (openBoundary_fsr s) f

/-- A wake-up writes /TO at most. -/
theorem wakeUp_status_bit (byWatchdog : Bool) (s : State) {k : Nat} (hk : k ≠ 4) :
    (wakeUp byWatchdog s).status.getLsbD k = s.status.getLsbD k := by
  cases byWatchdog with
  | false => rfl
  | true => rw [wakeUp_status, if_pos rfl, getLsbD_setBit, if_neg fun h => hk h.1]

theorem effAddr_wakeUp (byWatchdog : Bool) (s : State) (f : FileField) :
    effAddr (wakeUp byWatchdog s) f = effAddr s f :=
  effAddr_congr (wakeUp_status_bit byWatchdog s (by decide)) (wakeUp_status_bit byWatchdog s (by decide))
    (wakeUp_status_bit byWatchdog s (by decide)) rfl f

/-- An instruction that the step from `s` runs starts in `u`: INTCON is that of after the boundary, the stack, the
parameters and the operands' addresses are those of `s`. -/
structure StartsFrom (s u : State) : Prop where
  intcon : u.intcon = (openBoundary s).intcon
  stack : u.stack = s.stack
  cfg : u.cfg = s.cfg
  effAddr : effAddr u = effAddr s

theorem StartsFrom.of_openBoundary {s u : State} (hintcon : u.intcon = (openBoundary s).intcon)
    (hstack : u.stack = (openBoundary s).stack) (hcfg : u.cfg = (openBoundary s).cfg)
    (hea : ∀ f, Machine.effAddr u f = Machine.effAddr (openBoundary s) f) : StartsFrom s u :=
  ⟨hintcon, hstack.trans (openBoundary_stack s), hcfg.trans (openBoundary_cfg s),
    funext fun f => (hea f).trans (effAddr_openBoundary s f)⟩

/-- What the instruction stores to can be read off the state before the step. -/
theorem StartsFrom.storesReg {s u : State} (h : StartsFrom s u) {i : Instr} {reg : FileReg}
    (hstores : StoresReg i u reg) : StoresReg i s reg := by
  obtain ⟨a, dst, names⟩ := hstores
  rw [storesTo, h.effAddr] at dst
  exact ⟨a, dst, h.cfg ▸ names⟩

/-- A step is a reset, an idle step, an interrupt entry, or runs an instruction. -/
theorem step_runs {s t : State} (h : step s = .next t) :
    (∃ cause, stepKind s.boundary (openBoundary s) = .reset cause) ∨ t = openBoundary s ∨
      (stepKind s.boundary (openBoundary s) = .interrupt ∧ takeInterrupt (openBoundary s).endDeferral = .ok t) ∨
      ∃ i u, StepRan s i ∧ StartsFrom s u ∧ exec i u = .next t := by
  cases step_cases h with
  | reset cause kind => exact Or.inl ⟨cause, kind⟩
  | idle => exact Or.inr (Or.inl rfl)
  | interrupt _ kind takes => exact Or.inr (Or.inr (Or.inl ⟨kind, takes⟩))
  | wake byWatchdog word i _ kind fetched decodes runs =>
    exact Or.inr (Or.inr (Or.inr ⟨i, wakeUp byWatchdog (openBoundary s),
      ⟨.inr (.inr ⟨byWatchdog, kind⟩), word, fetched, decodes⟩,
      .of_openBoundary (wakeUp_intcon _ _) (wakeUp_stack _ _) (wakeUp_cfg _ _) (effAddr_wakeUp byWatchdog _), runs⟩))
  | runDeferred word i _ kind fetched decodes runs =>
    exact Or.inr (Or.inr (Or.inr ⟨i, (openBoundary s).countDeferral, ⟨.inr (.inl kind), word, fetched, decodes⟩,
      .of_openBoundary (State.countDeferral_intcon _) (State.countDeferral_stack _) (State.countDeferral_cfg _)
        fun _ => rfl, runs⟩))
  | run word i _ kind fetched decodes runs =>
    exact Or.inr (Or.inr (Or.inr ⟨i, (openBoundary s).endDeferral, ⟨.inl kind, word, fetched, decodes⟩,
      .of_openBoundary (State.endDeferral_intcon _) (State.endDeferral_stack _) (State.endDeferral_cfg _)
        fun _ => rfl, runs⟩))

/-! ### The interrupt flags (R34, R232) -/

/-- An instruction that does not store to INTCON changes none of its bits but GIE. -/
theorem exec_intcon_bit {i : Instr} {s t : State} (h : exec i s = .next t) (hstore : ¬StoresReg i s .intcon) {k : Nat}
    (hk : k < 7) : t.intcon.getLsbD k = s.intcon.getLsbD k := by
  by_cases hi : i = .retfie
  · subst hi
    obtain ⟨a, rest, -, rfl⟩ := returnFromInterrupt_cases (finish_next.mp h)
    exact (getLsbD_setBit s.intcon 7 k true).trans (if_neg (by omega))
  · rw [(exec_specialFrame h).intcon hstore hi]

/-- The interrupt entry changes none of its bits but GIE. -/
theorem takeInterrupt_intcon_bit {s t : State} (h : takeInterrupt s = .ok t) {k : Nat} (hk : k < 7) :
    t.intcon.getLsbD k = s.intcon.getLsbD k := by
  obtain ⟨-, rfl⟩ := takeInterrupt_cases h
  exact (getLsbD_setBit s.intcon 7 k false).trans (if_neg (by omega))

/-- Settles O43: neither the boundary nor the interrupt entry clears one of the flags, and an instruction clears it only
by a store. -/
theorem interruptFlagsAreClearedOnlyBySoftwareOrReset : Obligations.InterruptFlagsAreClearedOnlyBySoftwareOrReset := by
  intro s t k hstep hk hset hclear
  have hopen : (openBoundary s).intcon.getLsbD k = true := by
    rw [openBoundary_intcon_bit s (by omega), hset, Bool.true_or, Bool.true_or, Bool.true_or]
  have hlost (h : t.intcon.getLsbD k = (openBoundary s).intcon.getLsbD k) : False :=
    Bool.false_ne_true (hclear.symm.trans (h.trans hopen))
  rcases step_runs hstep with hreset | rfl | ⟨-, takes⟩ | ⟨i, u, hran, hstart, hexec⟩
  · exact Or.inl hreset
  · exact (hlost rfl).elim
  · exact (hlost (takeInterrupt_intcon_bit takes (by omega))).elim
  · refine Or.inr ⟨i, hran, hstart.storesReg (by_contra fun hstore => hlost ?_)⟩
    rw [exec_intcon_bit hexec hstore (by omega), hstart.intcon]

/-! ### The return stack (R42) -/

theorem exec_stack {i : Instr} {s t : State} (h : exec i s = .next t) (hreturn : isReturn i = false)
    (hcall : ∀ k, i ≠ .call k) : t.stack = s.stack := by
  cases exec_cases h with
  | store a reg v fl u skip dst names writes => rw [skipIf_eq]; exact (writeReg_frame writes).stack
  | result => rw [skipIf_eq]; rfl
  | move => rw [skipIf_eq]; rfl
  | pop _ _ _ _ is => exact absurd (hreturn.symm.trans is) Bool.false_ne_true
  | call k is => exact absurd is (hcall k)
  | _ => rfl

/-- Settles O50: the instructions by their frame, the steps by what they run. -/
theorem stackChangesOnlyByCallReturnAndInterrupt : Obligations.StackChangesOnlyByCallReturnAndInterrupt := by
  refine ⟨fun _ _ _ => exec_stack, fun s t hstep hchanged => ?_⟩
  rcases step_runs hstep with hreset | rfl | ⟨hkind, -⟩ | ⟨i, u, hran, hstart, hexec⟩
  · exact Or.inr (Or.inl hreset)
  · exact absurd (openBoundary_stack s) hchanged
  · exact Or.inl hkind
  · refine Or.inr (Or.inr ⟨i, hran, by_contra fun hno => hchanged ?_⟩)
    rw [not_or, not_exists] at hno
    obtain ⟨hreturn, hcall⟩ := hno
    exact (exec_stack hexec (Bool.eq_false_iff.mpr hreturn) hcall).trans hstart.stack

end Sys2Proof.Machine
end
